-- ==== Sys2Proof/Word.lean ====
section
/-! DEFINITION. The word types of the codec block: 8-bit bytes (00_scope.md R7), 32-bit command and
checksum words, and 64-bit operand, result and position words (R8, 10_state.md R21). -/

namespace Sys2Proof

/-- A byte: 8 bits, unsigned (R7). -/
abbrev Byte := BitVec 8

/-- A command word or a checksum (R8, R22). -/
abbrev Word32 := BitVec 32

/-- The width of ARG, RES and POS, and of a varint value (R8, R21). -/
abbrev Word64 := BitVec 64

end Sys2Proof
end

