-- ==== Sys2Proof/Syntax.lean ====
section
/-! DEFINITION. Everything that is written down rather than executed: the seven commands of
spec/opcode_table.json, the fields of a command word (30_encoding.md R70), the host's actions
(10_state.md R36), the host assembly (R78, R79), and the list that says which agent moves next. -/

namespace Sys2Proof

/-- The commands, one constructor per row of spec/opcode_table.json. A command word carries no
operand (R75, R77): every operand comes from a fixed register. -/
inductive Instr where
  | crc32
  | cobsStuff
  | cobsStuffD
  | cobsUnstuff
  | cobsUnstuffD
  | varintEnc
  | varintDec
deriving DecidableEq, Repr

/-- The four bit fields of a command word, format C (R70). -/
structure Format where
  /-- bits 31:9, reserved, must be zero -/
  rsvHi : BitVec 23
  /-- bit 8, the delimiter option -/
  d     : BitVec 1
  /-- bits 7:4, reserved, must be zero -/
  rsvLo : BitVec 4
  /-- bits 3:0, the operation selector -/
  op    : BitVec 4
deriving DecidableEq, Repr

/-- The registers the host may name in a read (R21, R36). CRC_T is not among them: the host has no
access to it (R29). -/
inductive Reg where
  | cmd | busy | status | arg | inBuf | inLen | out | outLen | res | pos
deriving DecidableEq, Repr

/-- One host read: a register at its full width, or one byte `OUT[i]` (R27, R54). -/
inductive ReadReq where
  | reg (r : Reg)
  | outByte (i : Nat)
deriving DecidableEq, Repr

/-- What a host read returns: the BUSY bit, a byte (STATUS, `OUT[i]`), a 64-bit word, or a whole
byte sequence (R54). -/
inductive ReadVal where
  | bit (b : Bool)
  | byte (b : Byte)
  | word (v : Word64)
  | bytes (bs : List Byte)
deriving DecidableEq, Repr

/-- The host's actions (R36). A read of CMD can be written down too, and is a model fault (R22). -/
inductive HostAction where
  | writeIn (bs : List Byte)
  | writeArg (v : Word64)
  | writeCmd (w : Word32)
  | read (q : ReadReq)
deriving DecidableEq, Repr

/-- The registers that the host statement `save` can name (R78). -/
inductive SaveReg where
  | out | res | pos | status
deriving DecidableEq, Repr

/-- The byte-sequence operand of the host statement `in` (R78). Host variables are numbered (log 9). -/
inductive SeqExpr where
  | bytes (bs : List Byte)
  | ascii (cs : List Char)
  | out
  | var (x : Nat)
  | cat (a b : SeqExpr)
deriving DecidableEq, Repr

/-- The operand of the host statement `arg` (R78). -/
inductive ValExpr where
  | lit (v : Word64)
  | res
  | pos
  | var (x : Nat)
deriving DecidableEq, Repr

/-- The statements of the host assembly (R78). Labels and host variables are numbered (log 9). -/
inductive Stmt where
  | inSeq (e : SeqExpr)
  | arg (e : ValExpr)
  | cmd (i : Instr)
  | cmdWord (w : Word32)
  | wait
  | save (x : Nat) (r : SaveReg)
  | bneStatus (code : Byte) (l : Nat)
  | b (l : Nat)
  | label (l : Nat)
  | halt
deriving DecidableEq, Repr

/-- The pseudo-instruction `run <mnemonic>`: `cmd <mnemonic>` followed by `wait` (R79). -/
def Stmt.run (i : Instr) : List Stmt := [.cmd i, .wait]

/-- One entry of the schedule: which agent makes the next step of the one total order of R59
(DESIGN CHOICE, log 1). -/
inductive Turn where
  /-- the block: its perform step if BUSY = 1 -/
  | block
  /-- the host takes one action -/
  | host (a : HostAction)
  /-- the host executes the next statement of its program -/
  | program
  /-- the reset event (R230) -/
  | reset
deriving DecidableEq, Repr

end Sys2Proof
end

