-- ==== Sys2Proof/Config.lean ====
section
/-! DEFINITION. The parameters of 00_scope.md R9, which a model takes as arguments, and the one
free value of the model. -/

namespace Sys2Proof

/-- `VARINT_G10_POLICY`: what VARINT_DEC does when the tenth group terminates with a payload above 1
(R9, R156). -/
inductive G10Policy where
  /-- VARINT_OVERFLOW, the spec's default -/
  | reject
  /-- keep the low 64 bits -/
  | truncate
deriving DecidableEq, Repr

/-- The parameters of one machine (R9). `none` for a capacity means unbounded. The state carries them,
no step changes them, and a statement about every state is a statement about every value of them
(log 3). -/
structure Config where
  /-- `IN_CAP`, open in the spec -/
  inCap  : Option Nat
  /-- `OUT_CAP`, bounded below by `Config.wf` -/
  outCap : Option Nat
  /-- `VARINT_G10_POLICY` -/
  g10    : G10Policy
  /-- `REG_MAP`, open in the spec; no rule reads it (R57, log 20) -/
  regMap : List (Reg × Nat)
deriving DecidableEq, Repr

/-- The parameters of `Machine.State.reset`: the spec's default policy REJECT; unbounded buffers and no
register placement (DESIGN CHOICE, logs 3 and 20). -/
def Config.default : Config :=
  { inCap := none, outCap := none, g10 := .reject, regMap := [] }

/-- FREE VALUE (log 5): the content of a 64-bit cell (IN_LEN, OUT_LEN or POS) that should hold a length
or an index of 2^64 or more. The spec states none. -/
opaque Config.lengthBeyond64 : Nat → Word64

end Sys2Proof
end

