-- ==== Sys2Proof/WellFormed.lean ====
section
/-! DEFINITION. Well-formedness of what is written down: the fields of a command word (30_encoding.md R70
to R73), the parameters (00_scope.md R9) and a host program (R78). Every `Instr` is well-formed: a
command takes no operand (R77). -/

namespace Sys2Proof

/-- Bits 31:9 are zero (R73). -/
def Format.rsvHiOk (f : Format) : Bool := f.rsvHi == 0

/-- Bits 7:4 are zero (R73). -/
def Format.rsvLoOk (f : Format) : Bool := f.rsvLo == 0

/-- OP names one of the five operations (R71). -/
def Format.opOk (f : Format) : Bool := decide (1 ≤ f.op.toNat ∧ f.op.toNat ≤ 5)

/-- D is zero unless the operation is COBS_STUFF or COBS_UNSTUFF (R72). -/
def Format.dOk (f : Format) : Bool := f.d == 0 || f.op == 2 || f.op == 3

/-- The fields of a legal command word (R70 to R74). -/
def Format.wf (f : Format) : Bool := f.rsvHiOk && f.rsvLoOk && f.opOk && f.dOk

/-- The least OUT_CAP for a given IN_CAP: `max(10, IN_CAP + ceil(IN_CAP/254) + 2)` (R9). -/
def Config.outCapMin (inCap : Nat) : Nat := max 10 (inCap + (inCap + 253) / 254 + 2)

/-- The condition R9 puts on the capacities. -/
def Config.wf (c : Config) : Bool :=
  match c.inCap, c.outCap with
  | _, none => true
  | none, some _ => false
  | some i, some o => decide (Config.outCapMin i ≤ o)

/-- Every character of an ASCII operand is ASCII (R78). -/
def SeqExpr.wf : SeqExpr → Bool
  | .bytes _ => true
  | .ascii cs => cs.all fun c => decide (c.toNat < 128)
  | .out => true
  | .var _ => true
  | .cat a b => a.wf && b.wf

/-- The labels that stand in a host program, in order. -/
def progLabels (p : List Stmt) : List Nat :=
  p.filterMap fun s => match s with
    | .label l => some l
    | _ => none

/-- A statement's label, if it branches, stands among `ls`, and its sequence operand is well-formed. -/
def Stmt.wf (ls : List Nat) : Stmt → Bool
  | .inSeq e => e.wf
  | .bneStatus _ l => ls.contains l
  | .b l => ls.contains l
  | .arg _ | .cmd _ | .cmdWord _ | .wait | .save _ _ | .label _ | .halt => true

/-- A host program whose branches have exactly one target each (R78). -/
def progWf (p : List Stmt) : Bool :=
  decide (progLabels p).Nodup && p.all (Stmt.wf (progLabels p))

end Sys2Proof
end

