-- ==== Sys2Proof/Decode.lean ====
section
/-! DEFINITION. The command decoder, total on the 2^32 words and rejecting by name (30_encoding.md R70
to R74), and after it the encoder (R77). -/

namespace Sys2Proof

/-- Why a word is ILLEGAL. The spec has the one result ILLEGAL (R74); the names are the model's (log 24)
and every one of them ends in ILLEGAL_COMMAND (R201). -/
inductive IllegalReason where
  /-- a bit of RSV_HI or RSV_LO is set (R73) -/
  | reservedBits
  /-- OP is 0x0 or 0x6..0xF (R71) -/
  | reservedOp
  /-- D = 1 with CRC32, VARINT_ENC or VARINT_DEC (R72) -/
  | delimiterBit
deriving DecidableEq, Repr

/-- The bit fields of a command word (R70). -/
def Format.ofWord (w : Word32) : Format :=
  { rsvHi := w.extractLsb' 9 23, d := w.extractLsb' 8 1, rsvLo := w.extractLsb' 4 4, op := w.extractLsb' 0 4 }

/-- The command that the fields name, or why there is none (R71 to R74). -/
def Format.decode (f : Format) : Except IllegalReason Instr :=
  if f.rsvHi ≠ 0 ∨ f.rsvLo ≠ 0 then .error .reservedBits
  else if f.op = 0x1 then (if f.d = 0 then .ok .crc32 else .error .delimiterBit)
  else if f.op = 0x2 then (if f.d = 0 then .ok .cobsStuff else .ok .cobsStuffD)
  else if f.op = 0x3 then (if f.d = 0 then .ok .cobsUnstuff else .ok .cobsUnstuffD)
  else if f.op = 0x4 then (if f.d = 0 then .ok .varintEnc else .error .delimiterBit)
  else if f.op = 0x5 then (if f.d = 0 then .ok .varintDec else .error .delimiterBit)
  else .error .reservedOp

/-- `Decode(w)` of R74. -/
def decode (w : Word32) : Except IllegalReason Instr := (Format.ofWord w).decode

/-- The fields of each command, from R71 and R72. -/
def Format.ofInstr : Instr → Format
  | .crc32        => { rsvHi := 0, d := 0, rsvLo := 0, op := 0x1 }
  | .cobsStuff    => { rsvHi := 0, d := 0, rsvLo := 0, op := 0x2 }
  | .cobsStuffD   => { rsvHi := 0, d := 1, rsvLo := 0, op := 0x2 }
  | .cobsUnstuff  => { rsvHi := 0, d := 0, rsvLo := 0, op := 0x3 }
  | .cobsUnstuffD => { rsvHi := 0, d := 1, rsvLo := 0, op := 0x3 }
  | .varintEnc    => { rsvHi := 0, d := 0, rsvLo := 0, op := 0x4 }
  | .varintDec    => { rsvHi := 0, d := 0, rsvLo := 0, op := 0x5 }

/-- The word with the given fields (R70): RSV_HI on top, OP at the bottom. -/
def Format.toWord (f : Format) : Word32 := f.rsvHi ++ f.d ++ f.rsvLo ++ f.op

/-- The command word of a command (R77). -/
def encode (i : Instr) : Word32 := (Format.ofInstr i).toWord

/-- The host's reading of a row of spec/opcode_table.json: the low `nbits` bits of `w` are the command
word, the bits above are zero. A number of more than 32 bits is no command word (R76, log 21). -/
def decodeTableWord (nbits w : Nat) : Option Instr :=
  if w % 2 ^ nbits < 2 ^ 32 then
    match decode (BitVec.ofNat 32 (w % 2 ^ nbits)) with
    | .ok i => some i
    | .error _ => none
  else none

end Sys2Proof
end

