-- ==== Sys2Proof/Machine/State.lean ====
section
/-! DEFINITION. The state of the codec block and of the host that drives it (10_state.md R20 to R39),
the ways a step can stop, and the state after reset (70_reset_and_hazards.md R230). -/

namespace Sys2Proof.Machine

/-- The STATUS codes (60_exceptions.md R200). Their 8-bit values are `Status.code`. The reserved codes
0x05..0xFE are never written and have no constructor (log 14). -/
inductive Status where
  /-- 0x00 OK -/
  | ok
  /-- 0x01 FRAMING_ERROR -/
  | framingError
  /-- 0x02 VARINT_TRUNCATED -/
  | varintTruncated
  /-- 0x03 VARINT_OVERFLOW -/
  | varintOverflow
  /-- 0x04 ILLEGAL_COMMAND -/
  | illegalCommand
  /-- 0xFF NONE: no command has completed since reset -/
  | noneYet
deriving DecidableEq, Repr

/-- The host agent: the program of the host assembly it runs (30_encoding.md R78), its position in it,
its variables, and what its last read action returned. The block has no access to any of it. These are
the model's own fields (logs 9 and 23). -/
structure HostAgent where
  /-- the statements of the host program -/
  prog     : List Stmt
  /-- the index of the next statement; not a register of the block (R31) -/
  pc       : Nat
  /-- every `save` so far, the newest first; a variable's value is its first entry -/
  vars     : List (Nat × ReadVal)
  /-- what the last host read action returned -/
  lastRead : Option ReadVal
deriving DecidableEq, Repr

/-- A host with no program that has read nothing. -/
def HostAgent.init : HostAgent := { prog := [], pc := 0, vars := [], lastRead := none }

/-- The machine's state: the parameters, the registers of R21 (`none` is the spec's ⊥, R12), the host
agent and the schedule. IN_LEN and OUT_LEN are the lengths of IN and OUT (R26, R13), so they are the
views `State.inLen` and `State.outLen`; CRC_T is the constant `crcRom` (R29). -/
structure State where
  /-- the parameters of R9 -/
  cfg    : Config
  /-- CMD (R22) -/
  cmd    : Option Word32
  /-- BUSY (R23) -/
  busy   : Bool
  /-- STATUS (R24) -/
  status : Status
  /-- ARG (R25) -/
  arg    : Option Word64
  /-- IN (R26) -/
  inBuf  : List Byte
  /-- OUT (R27) -/
  out    : Option (List Byte)
  /-- RES (R28) -/
  res    : Option Word64
  /-- POS (R30) -/
  pos    : Option Word64
  /-- the host agent -/
  agent  : HostAgent
  /-- which agent makes the next steps; when it is empty, the block does (log 1) -/
  turns  : List Turn
deriving DecidableEq, Repr

/-- IN_LEN as the number the rules compute with (R26). -/
def State.inLen (s : State) : Nat := s.inBuf.length

/-- OUT_LEN as a number; ⊥ with OUT (R27). -/
def State.outLen (s : State) : Option Nat := s.out.map List.length

/-- Why the machine stops. The first six are the model faults of 60_exceptions.md R210: outcomes to
which the spec gives no meaning. All are safe: the model stops where hardware would do something. -/
inductive Fault where
  /-- MF1: a host read of a register that holds ⊥. Raised by host reads. Safe. -/
  | bottomRead (r : Reg)
  /-- MF2: a host read of `OUT[i]` with `i >= OUT_LEN`. Raised by host reads. Safe. -/
  | outIndex (i : Nat)
  /-- MF3: a host read of CMD. Raised by host reads. Safe. -/
  | cmdRead
  /-- MF4: a perform step of VARINT_ENC or VARINT_DEC with ARG = ⊥. Raised by those two. Safe. -/
  | argBottom
  /-- MF5: a host action other than a read of BUSY while BUSY = 1. Raised by host actions. Safe. -/
  | busyAccess
  /-- MF6: `WriteIn(s)` with `len(s) > IN_CAP`. Raised by WriteIn. Safe. -/
  | inCapExceeded
  /-- A perform step with CMD = ⊥: a register that holds ⊥ cannot be read (R12). Raised by `perform`;
  no run from reset reaches it (log 8). Safe. -/
  | cmdBottom
  /-- A host statement branches to a label that stands nowhere. Raised by host statements (log 10). Safe. -/
  | undefinedLabel (l : Nat)
  /-- A host statement uses a variable that nothing has saved. Raised by host statements (log 10). Safe. -/
  | unsetVariable (x : Nat)
  /-- A host statement uses a byte sequence as a number, or a number as a byte sequence. Raised by host
  statements (log 10). Safe. -/
  | variableKind (x : Nat)
deriving DecidableEq, Repr

/-- Why a step has no meaning in the model. -/
inductive Refusal where
  /-- The instruction is not modelled yet. Raised by `exec`'s arms only; no arm raises it now. Safe. -/
  | notModelled (mnemonic : String)
deriving DecidableEq, Repr

/-- The registers after the reset event (R230), with given parameters, host agent and schedule. -/
def State.resetWith (c : Config) (a : HostAgent) (ts : List Turn) : State :=
  { cfg := c, cmd := none, busy := false, status := .noneYet, arg := none, inBuf := [],
    out := none, res := none, pos := none, agent := a, turns := ts }

/-- The machine right after reset (R39, R230), with the default parameters, a host that has no program,
and an empty schedule. -/
def State.reset : State := State.resetWith Config.default HostAgent.init []

end Sys2Proof.Machine
end

