-- ==== Sys2Proof/Machine/Flags.lean ====
section
/-! DEFINITION. The block has no flags (10_state.md R34): an operation's outcome is the STATUS code
(60_exceptions.md R200). -/

namespace Sys2Proof.Machine

/-- The 8-bit value of each STATUS code (R200). -/
def Status.code : Status → Byte
  | .ok              => 0x00
  | .framingError    => 0x01
  | .varintTruncated => 0x02
  | .varintOverflow  => 0x03
  | .illegalCommand  => 0x04
  | .noneYet         => 0xFF

end Sys2Proof.Machine
end

