-- ==== Sys2Proof/Machine/Ops.lean ====
section
/-! DEFINITION. The named operations over the registers: what the perform step does to every output
register (30_encoding.md R81), success (R75), failure (60_exceptions.md R205), the host's writes
(10_state.md R25, R26, R80) and the reset event (R230). -/

namespace Sys2Proof.Machine

/-- Whether a length fits a capacity; `none` is unbounded (R9). -/
def withinCap (cap : Option Nat) (n : Nat) : Bool :=
  match cap with
  | none => true
  | some c => decide (n ≤ c)

/-- A length or an index as the content of a 64-bit cell: itself, where it fits; else the free value
(R21, log 5). -/
def lenWord (n : Nat) : Word64 :=
  if n < 2 ^ 64 then BitVec.ofNat 64 n else Config.lengthBeyond64 n

/-- The first line of Perform (R81): OUT, OUT_LEN, RES and POS become ⊥. -/
def clearOutputs (s : State) : State := { s with out := none, res := none, pos := none }

/-- The last lines of Perform (R81): STATUS is written and BUSY falls. -/
def finish (st : Status) (s : State) : State := { s with status := st, busy := false }

/-- `raise S` (R13, R205): STATUS gets the code, every output register holds ⊥, BUSY falls, and nothing
else changes. This is the block's whole error entry: no mode, no saved state, no handler, and so no
return from it either (R205, R207). -/
def raise (st : Status) (s : State) : State := finish st (clearOutputs s)

/-- Success with an output sequence, `OutWrite(bs)` (R13): OUT and OUT_LEN in one step. -/
def succeedOut (bs : List Byte) (s : State) : State :=
  finish .ok { clearOutputs s with out := some bs }

/-- Success with a result word: RES (R130). -/
def succeedRes (v : Word64) (s : State) : State :=
  finish .ok { clearOutputs s with res := some v }

/-- Success with a result word and a position: RES and POS (R153, R157). -/
def succeedResPos (v : Word64) (p : Nat) (s : State) : State :=
  finish .ok { clearOutputs s with res := some v, pos := some (lenWord p) }

/-- Commits the outcome of an operation whose output is a byte sequence (R81). -/
def commitOut (r : Except Status (List Byte)) (s : State) : Host.Outcome State Fault Refusal :=
  match r with
  | .ok bs => .next (succeedOut bs s)
  | .error st => .next (raise st s)

/-- Commits the outcome of an operation whose outputs are a value and a new offset (R81). -/
def commitResPos (r : Except Status (Word64 × Nat)) (s : State) : Host.Outcome State Fault Refusal :=
  match r with
  | .ok (v, p) => .next (succeedResPos v p s)
  | .error st => .next (raise st s)

/-- `WriteIn`: one write sets IN and IN_LEN (R26). -/
def setIn (bs : List Byte) (s : State) : State := { s with inBuf := bs }

/-- `WriteArg` (R25). -/
def setArg (v : Word64) (s : State) : State := { s with arg := some v }

/-- `CMD <- w; BUSY <- 1` as one step (R80). -/
def issue (w : Word32) (s : State) : State := { s with cmd := some w, busy := true }

/-- The reset event (R230): every register gets its reset value, a pending command is aborted. The
parameters, the host agent and the schedule are not registers of the block and stay (log 13). -/
def resetEvent (s : State) : State := State.resetWith s.cfg s.agent s.turns

/-- The host notes what a read action returned. -/
def recordRead (v : ReadVal) (s : State) : State := { s with agent := { s.agent with lastRead := some v } }

/-- The host goes on to position `k` of its program. -/
def jump (k : Nat) (s : State) : State := { s with agent := { s.agent with pc := k } }

/-- The host goes on to its next statement. -/
def advance (s : State) : State := jump (s.agent.pc + 1) s

/-- The host saves a value in a variable. -/
def bindVar (x : Nat) (v : ReadVal) (s : State) : State :=
  { s with agent := { s.agent with vars := (x, v) :: s.agent.vars } }

end Sys2Proof.Machine
end

