-- ==== Sys2Proof/Machine/Operands.lean ====
section
/-! DEFINITION. Where an operation's operands come from (30_encoding.md R75): IN, ARG, and the D option's
strip of a trailing delimiter (40_cobs.md R113). -/

namespace Sys2Proof.Machine

/-- `InRead(i)`: the byte `IN[i]` for `i < IN_LEN`, else nothing (R13, R26). -/
def inRead (buf : List Byte) (i : Nat) : Option Byte := buf[i]?

/-- Gives ARG to an operation that needs it; ARG = ⊥ is model fault MF4: "the step has no successor state"
(R81; also R25, R150, R153, R210, R232). -/
def withArg (s : State) (k : Word64 → Host.Outcome State Fault Refusal) : Host.Outcome State Fault Refusal :=
  match s.arg with
  | none => .fault .argBottom
  | some v => k v

/-- The input of COBS_UNSTUFF with D = 1: one trailing zero is dropped if the last byte is zero (R113). -/
def stripDelimiter (bs : List Byte) : List Byte :=
  if bs.getLast? = some 0#8 then bs.dropLast else bs

end Sys2Proof.Machine
end

