-- ==== Sys2Proof/Machine/HostActions.lean ====
section
/-! DEFINITION. The host's actions (10_state.md R36 to R38) and the model faults they can be
(60_exceptions.md R210). -/

namespace Sys2Proof.Machine

/-- The value of a cell, or MF1 if it holds ⊥: R38 forbids a model to give it zero or any other value, and
R36 and R210 call the read a model fault. -/
def cell {α : Type} (r : Reg) : Option α → Except Fault α
  | none => .error (.bottomRead r)
  | some v => .ok v

/-- What a host read returns (R36, R54). -/
def readNow (s : State) : ReadReq → Except Fault ReadVal
  | .reg .cmd => .error .cmdRead
  | .reg .busy => .ok (.bit s.busy)
  | .reg .status => .ok (.byte s.status.code)
  | .reg .arg => (cell .arg s.arg).map .word
  | .reg .inBuf => .ok (.bytes s.inBuf)
  | .reg .inLen => .ok (.word (lenWord s.inLen))
  | .reg .out => (cell .out s.out).map .bytes
  | .reg .outLen => (cell .outLen s.outLen).map fun n => .word (lenWord n)
  | .reg .res => (cell .res s.res).map .word
  | .reg .pos => (cell .pos s.pos).map .word
  | .outByte i =>
    match s.out with
    | none => .error (.bottomRead .out)
    | some bs =>
      match bs[i]? with
      | none => .error (.outIndex i)
      | some b => .ok (.byte b)

/-- A host read with the BUSY discipline: while BUSY = 1 only BUSY can be read (R37). -/
def readReq (s : State) (q : ReadReq) : Except Fault ReadVal :=
  if s.busy ∧ q ≠ .reg .busy then .error .busyAccess else readNow s q

/-- `WriteIn(bs)` (R26, R36, R37). -/
def hostWriteIn (bs : List Byte) (s : State) : Host.Outcome State Fault Refusal :=
  if s.busy then .fault .busyAccess
  else if withinCap s.cfg.inCap bs.length then .next (setIn bs s)
  else .fault .inCapExceeded

/-- `WriteArg(v)` (R25, R36, R37). -/
def hostWriteArg (v : Word64) (s : State) : Host.Outcome State Fault Refusal :=
  if s.busy then .fault .busyAccess else .next (setArg v s)

/-- `WriteCmd(w)` (R80). -/
def hostWriteCmd (w : Word32) (s : State) : Host.Outcome State Fault Refusal :=
  if s.busy then .fault .busyAccess else .next (issue w s)

/-- A host read: it changes no register (R55); the host notes the value. -/
def hostRead (q : ReadReq) (s : State) : Host.Outcome State Fault Refusal :=
  match readReq s q with
  | .ok v => .next (recordRead v s)
  | .error f => .fault f

/-- One host action (R36). -/
def hostAct (a : HostAction) (s : State) : Host.Outcome State Fault Refusal :=
  match a with
  | .writeIn bs => hostWriteIn bs s
  | .writeArg v => hostWriteArg v s
  | .writeCmd w => hostWriteCmd w s
  | .read q => hostRead q s

end Sys2Proof.Machine
end

