-- ==== Sys2Proof/Machine/HostProgram.lean ====
section
/-! DEFINITION. The statements of the host assembly (30_encoding.md R78, R79). Each is one host action of
R36 or a host-side control statement. -/

namespace Sys2Proof.Machine

/-- A host variable's value: its newest `save`. -/
def lookupVar (x : Nat) (s : State) : Except Fault ReadVal :=
  match s.agent.vars.find? (fun e => e.1 == x) with
  | some e => .ok e.2
  | none => .error (.unsetVariable x)

/-- OUT as the host reads it (R36, R37). -/
def hostOut (s : State) : Except Fault (List Byte) :=
  if s.busy then .error .busyAccess else cell .out s.out

/-- RES or POS as the host reads it (R36, R37). -/
def hostWord (r : Reg) (c : Option Word64) (s : State) : Except Fault Word64 :=
  if s.busy then .error .busyAccess else cell r c

/-- A host variable as a byte sequence. -/
def varBytes (x : Nat) (s : State) : Except Fault (List Byte) :=
  match lookupVar x s with
  | .ok (.bytes bs) => .ok bs
  | .ok (.bit _) | .ok (.byte _) | .ok (.word _) => .error (.variableKind x)
  | .error f => .error f

/-- A host variable as a number; a saved STATUS is zero-extended (log 22). -/
def varWord (x : Nat) (s : State) : Except Fault Word64 :=
  match lookupVar x s with
  | .ok (.word v) => .ok v
  | .ok (.byte b) => .ok (b.setWidth 64)
  | .ok (.bit _) | .ok (.bytes _) => .error (.variableKind x)
  | .error f => .error f

/-- The byte of an ASCII character (R78). R78 has ASCII strings only: of any other character, which
`SeqExpr.wf` calls ill-formed, the model takes the low 8 bits of the code point (DESIGN CHOICE, log 25). -/
def asciiByte (c : Char) : Byte := BitVec.ofNat 8 c.toNat

/-- The value of the operand of `in` (R78). When both sides of `++` fault, the left one's fault is reported,
and an operand's fault comes before MF5 or MF6 of the write (DESIGN CHOICE, log 7). -/
def evalSeq (s : State) : SeqExpr → Except Fault (List Byte)
  | .bytes bs => .ok bs
  | .ascii cs => .ok (cs.map asciiByte)
  | .out => hostOut s
  | .var x => varBytes x s
  | .cat a b =>
    match evalSeq s a with
    | .error f => .error f
    | .ok xs =>
      match evalSeq s b with
      | .error f => .error f
      | .ok ys => .ok (xs ++ ys)

/-- The value of the operand of `arg` (R78). Its fault comes before MF5 of the write (DESIGN CHOICE, log 7). -/
def evalVal (s : State) : ValExpr → Except Fault Word64
  | .lit v => .ok v
  | .res => hostWord .res s.res s
  | .pos => hostWord .pos s.pos s
  | .var x => varWord x s

/-- The register that `save` reads, as a host read (R78). -/
def saveRequest : SaveReg → ReadReq
  | .out => .reg .out
  | .res => .reg .res
  | .pos => .reg .pos
  | .status => .reg .status

/-- Where a label stands (R78). -/
def labelPos (prog : List Stmt) (l : Nat) : Option Nat := prog.findIdx? (fun st => st == .label l)

/-- The host continues at a label (R78). -/
def branchTo (l : Nat) (s : State) : Host.Outcome State Fault Refusal :=
  match labelPos s.agent.prog l with
  | some k => .next (jump k s)
  | none => .fault (.undefinedLabel l)

/-- After a host action the host goes on to its next statement. -/
def thenAdvance : Host.Outcome State Fault Refusal → Host.Outcome State Fault Refusal
  | .next s => .next (advance s)
  | .fault f => .fault f
  | .refused r => .refused r

/-- `in <seq>`: WriteIn of the operand's value (R78). A read of OUT in it and the write are one step of the
host (log 12). -/
def stmtIn (e : SeqExpr) (s : State) : Host.Outcome State Fault Refusal :=
  match evalSeq s e with
  | .ok bs => thenAdvance (hostWriteIn bs s)
  | .error f => .fault f

/-- `arg <val>`: WriteArg of the operand's value (R78, log 12). -/
def stmtArg (e : ValExpr) (s : State) : Host.Outcome State Fault Refusal :=
  match evalVal s e with
  | .ok v => thenAdvance (hostWriteArg v s)
  | .error f => .fault f

/-- `cmd <mnemonic>` and `cmd <word>`: WriteCmd (R78). -/
def stmtCmd (w : Word32) (s : State) : Host.Outcome State Fault Refusal := thenAdvance (hostWriteCmd w s)

/-- `wait`: read BUSY; stay here while it is 1 (R78). -/
def stmtWait (s : State) : Host.Outcome State Fault Refusal :=
  if s.busy then .next s else .next (advance s)

/-- `save <name>, <reg>`: read the register into the host variable (R78). -/
def stmtSave (x : Nat) (r : SaveReg) (s : State) : Host.Outcome State Fault Refusal :=
  match readReq s (saveRequest r) with
  | .ok v => .next (advance (bindVar x v s))
  | .error f => .fault f

/-- `bne.status <code>, <label>`: read STATUS; if it differs from the code, continue at the label (R78). -/
def stmtBneStatus (code : Byte) (l : Nat) (s : State) : Host.Outcome State Fault Refusal :=
  if s.busy then .fault .busyAccess
  else if s.status.code = code then .next (advance s)
  else branchTo l s

/-- One statement of the host program (R78). -/
def execStmt (st : Stmt) (s : State) : Host.Outcome State Fault Refusal :=
  match st with
  | .inSeq e => stmtIn e s
  | .arg e => stmtArg e s
  | .cmd i => stmtCmd (encode i) s
  | .cmdWord w => stmtCmd w s
  | .wait => stmtWait s
  | .save x r => stmtSave x r s
  | .bneStatus code l => stmtBneStatus code l s
  | .b l => branchTo l s
  | .label _ => .next (advance s)
  | .halt => .next s

/-- The host's turn at its program. Past the last statement it does nothing more, as after `halt` (log 11). -/
def programTurn (s : State) : Host.Outcome State Fault Refusal :=
  match s.agent.prog[s.agent.pc]? with
  | some st => execStmt st s
  | none => .next s

end Sys2Proof.Machine
end

