-- ==== Sys2Proof/Machine/Cobs.lean ====
section
/-! DEFINITION. The COBS frame encoder and decoder (40_cobs.md R100 to R115). -/

namespace Sys2Proof.Machine

/-- The code byte of a run: one more than its length (R100, R103). -/
def codeByte (run : List Byte) : Byte := BitVec.ofNat 8 (run.length + 1)

/-- The encoder's loop over the input bytes still to come, with the run gathered so far (R100). A run of
254 bytes is emitted at once (R101). -/
def stuffFrom (run : List Byte) : List Byte → List Byte
  | [] => codeByte run :: run
  | b :: bs =>
    if b = 0#8 then codeByte run :: (run ++ stuffFrom [] bs)
    else if (run ++ [b]).length = 254 then 0xFF#8 :: ((run ++ [b]) ++ stuffFrom [] bs)
    else stuffFrom (run ++ [b]) bs

/-- `stuff(bytes)` (R100 with d = 0). -/
def cobsStuff (bs : List Byte) : List Byte := stuffFrom [] bs

/-- `stuff(bytes)` and the zero delimiter (R105, d = 1). -/
def cobsStuffDelim (bs : List Byte) : List Byte := cobsStuff bs ++ [0#8]

/-- The decoder's loop over the input bytes still to come, `IN[i..n)` (R107 to R111). Each round consumes
at least the code byte, so as much fuel as there are bytes never runs out before the input does. -/
def unstuffFuel : Nat → List Byte → Except Status (List Byte)
  | 0, _ => .ok []
  | _ + 1, [] => .ok []
  | fuel + 1, code :: rest =>
    if code = 0#8 then .ok []
    else if code.toNat - 1 > rest.length then .error .framingError
    else
      let lits := rest.take (code.toNat - 1)
      let more := rest.drop (code.toNat - 1)
      let zero : List Byte := if code.toNat < 0xFF ∧ more ≠ [] then [0#8] else []
      match unstuffFuel fuel more with
      | .error st => .error st
      | .ok out => .ok (lits ++ zero ++ out)

/-- `unstuff(bytes)` (R107 with d = 0). -/
def cobsUnstuff (bs : List Byte) : Except Status (List Byte) := unstuffFuel bs.length bs

/-- `cobs.stuff` (R100, d = 0). -/
def execCobsStuff (s : State) : Host.Outcome State Fault Refusal :=
  .next (succeedOut (cobsStuff s.inBuf) s)

/-- `cobs.stuff.d` (R100, R105, d = 1). -/
def execCobsStuffD (s : State) : Host.Outcome State Fault Refusal :=
  .next (succeedOut (cobsStuffDelim s.inBuf) s)

/-- `cobs.unstuff` (R107, d = 0). -/
def execCobsUnstuff (s : State) : Host.Outcome State Fault Refusal :=
  commitOut (cobsUnstuff s.inBuf) s

/-- `cobs.unstuff.d` (R107, R113, d = 1). -/
def execCobsUnstuffD (s : State) : Host.Outcome State Fault Refusal :=
  commitOut (cobsUnstuff (stripDelimiter s.inBuf)) s

end Sys2Proof.Machine
end

