-- ==== Sys2Proof/Machine/Varint.lean ====
section
/-! DEFINITION. The unsigned LEB128 encoder and decoder (42_varint.md R150 to R160). -/

namespace Sys2Proof.Machine

/-- The 7-bit group in a varint byte (R153). -/
def groupOf (b : Byte) : Byte := b &&& 0x7F#8

/-- Whether a varint byte announces another (bit 7, R153). -/
def continues (b : Byte) : Bool := b &&& 0x80#8 != 0#8

/-- The encoder's loop (R150). A 64-bit value has at most ten groups (R152), so fuel 10 never runs out. -/
def encodeFuel : Nat → Word64 → List Byte
  | 0, _ => []
  | fuel + 1, v =>
    let g : Byte := (v &&& 0x7F#64).setWidth 8
    let v' := v >>> 7
    if v' ≠ 0#64 then (g ||| 0x80#8) :: encodeFuel fuel v' else [g]

/-- `encode(u64)` (R150). -/
def varintEncode (v : Word64) : List Byte := encodeFuel 10 v

/-- The decoder's loop (R153) at index `p` and shift `shift`, with the groups so far in `acc`. Its shift
passes 63 at the tenth round (R155), so fuel 10 never runs out before that error. -/
def decodeFuel (pol : G10Policy) (buf : List Byte) :
    Nat → Nat → Nat → Word64 → Except Status (Word64 × Nat)
  | 0, _, _, _ => .error .varintOverflow
  | fuel + 1, p, shift, acc =>
    match inRead buf p with
    | none => .error .varintTruncated
    | some b =>
      let acc' := acc ||| ((groupOf b).setWidth 64 <<< shift)
      if continues b then
        if shift + 7 > 63 then .error .varintOverflow
        else decodeFuel pol buf fuel (p + 1) (shift + 7) acc'
      else if shift = 63 ∧ groupOf b > 1#8 ∧ pol = .reject then .error .varintOverflow
      else .ok (acc', p + 1)

/-- `decode(bytes, offset)` (R153): the value and the index just past the terminating byte (R157). -/
def varintDecode (pol : G10Policy) (buf : List Byte) (p : Nat) : Except Status (Word64 × Nat) :=
  decodeFuel pol buf 10 p 0 0

/-- VARINT_ENC (R150). -/
def execVarintEnc (s : State) : Host.Outcome State Fault Refusal :=
  withArg s fun v => .next (succeedOut (varintEncode v) s)

/-- VARINT_DEC (R153). -/
def execVarintDec (s : State) : Host.Outcome State Fault Refusal :=
  withArg s fun p => commitResPos (varintDecode s.cfg.g10 s.inBuf p.toNat) s

end Sys2Proof.Machine
end

