-- ==== Sys2Proof/Machine/Dispatch.lean ====
section
/-! DEFINITION. One arm per command: the `case Decode(CMD) of` of 30_encoding.md R81. -/

namespace Sys2Proof.Machine

/-- The perform step of a legal command (R81). -/
def exec (i : Instr) (s : State) : Host.Outcome State Fault Refusal :=
  match i with
  | .crc32 => Sys2Proof.Machine.execCrc32 s
  | .cobsStuff => Sys2Proof.Machine.execCobsStuff s
  | .cobsStuffD => Sys2Proof.Machine.execCobsStuffD s
  | .cobsUnstuff => Sys2Proof.Machine.execCobsUnstuff s
  | .cobsUnstuffD => Sys2Proof.Machine.execCobsUnstuffD s
  | .varintEnc => Sys2Proof.Machine.execVarintEnc s
  | .varintDec => Sys2Proof.Machine.execVarintDec s

end Sys2Proof.Machine
end

