-- ==== Sys2Proof/Machine/Perform.lean ====
section
/-! DEFINITION. The block's one step, Perform (30_encoding.md R81). -/

namespace Sys2Proof.Machine

/-- The perform step for a command word: the command it decodes to, or ILLEGAL_COMMAND (R81, R201). -/
def performWord (w : Word32) (s : State) : Host.Outcome State Fault Refusal :=
  match decode w with
  | .ok i => exec i s
  | .error _ => .next (raise .illegalCommand s)

/-- The perform step reads CMD (R22, R81), and a read of a register that holds ⊥ is a model fault (R12).
BUSY = 1 with CMD = ⊥ is reached by no run (log 8). -/
def perform (s : State) : Host.Outcome State Fault Refusal :=
  match s.cmd with
  | none => .fault .cmdBottom
  | some w => performWord w s

/-- The block's turn: Perform is enabled exactly when BUSY = 1 (R20, R81); an idle block keeps every
register (R216, log 6). -/
def blockTurn (s : State) : Host.Outcome State Fault Refusal :=
  if s.busy then perform s else .next s

end Sys2Proof.Machine
end

