-- ==== Sys2Proof/Machine/Turns.lean ====
section
/-! DEFINITION. Whose step comes next in the one total order of 20_memory.md R59, and how a command word
is placed for the block to perform next. -/

namespace Sys2Proof.Machine

/-- The step of the agent whose turn it is. -/
def runTurn (t : Turn) (s : State) : Host.Outcome State Fault Refusal :=
  match t with
  | .block => blockTurn s
  | .host a => hostAct a s
  | .program => programTurn s
  | .reset => .next (resetEvent s)

/-- One step: the next entry of the schedule is used up; when there is none left, the block moves, so a
pending command is performed after finitely many steps (R237, log 1). -/
def takeTurn (s : State) : Host.Outcome State Fault Refusal :=
  match s.turns with
  | [] => blockTurn s
  | t :: ts => runTurn t { s with turns := ts }

/-- The low `nbits` bits of a number as a command word. -/
def tableWord (nbits w : Nat) : Word32 := BitVec.ofNat 32 (w % 2 ^ nbits)

/-- The command word has been issued and the block moves next (R80, R81; log 2). -/
def pending (w : Word32) (s : State) : State :=
  { s with cmd := some w, busy := true, turns := .block :: s.turns }

end Sys2Proof.Machine
end

