-- ==== Sys2Proof/Machine/Step.lean ====
section
/-! DEFINITION. One step of the machine, and the placing of a command word. -/

namespace Sys2Proof.Machine

/-- One step of the machine (20_memory.md R59). -/
def step (s : State) : Host.Outcome State Fault Refusal := takeTurn s

/-- `s` with the command word `w` issued and the block to move next. The block fetches nothing (10_state.md
R31): its next command is the content of CMD with BUSY = 1 (R80, log 2). -/
def State.withFetchWord (s : State) (nbits w : Nat) : State := pending (tableWord nbits w) s

end Sys2Proof.Machine
end

