-- ==== Sys2Proof/Safety.lean ====
section
/-! DEFINITION. What counts as a safe run, and the invariant of the machine. A model fault is "an outcome
to which the model gives no meaning" (60_exceptions.md R210): a safe run meets none. -/

namespace Sys2Proof.Machine

/-- Whether a command takes an operand from ARG (30_encoding.md R75). -/
def needsArg : Instr → Bool
  | .crc32 | .cobsStuff | .cobsStuffD | .cobsUnstuff | .cobsUnstuffD => false
  | .varintEnc | .varintDec => true

/-- The pending perform step has an outcome: CMD holds a word, and ARG holds a value if that word's
command needs one (R81, R210 MF4). -/
def performReady (s : State) : Bool :=
  match s.cmd with
  | none => false
  | some w =>
    match decode w with
    | .ok i => !needsArg i || s.arg.isSome
    | .error _ => true

/-- A host read that R36 and R37 give a value. -/
def readAllowed (s : State) : ReadReq → Bool
  | .reg .busy => true
  | .reg .cmd => false
  | .reg .status => !s.busy
  | .reg .arg => !s.busy && s.arg.isSome
  | .reg .inBuf => !s.busy
  | .reg .inLen => !s.busy
  | .reg .out => !s.busy && s.out.isSome
  | .reg .outLen => !s.busy && s.out.isSome
  | .reg .res => !s.busy && s.res.isSome
  | .reg .pos => !s.busy && s.pos.isSome
  | .outByte i => !s.busy && s.out.any (fun bs => decide (i < bs.length))

/-- A host action that is no model fault (R36, R37, R210). -/
def actionAllowed (s : State) : HostAction → Bool
  | .writeIn bs => !s.busy && withinCap s.cfg.inCap bs.length
  | .writeArg _ => !s.busy
  | .writeCmd _ => !s.busy
  | .read q => readAllowed s q

/-- `k` steps without a stop. -/
def safeFor : Nat → State → Bool
  | 0, _ => true
  | k + 1, s =>
    match step s with
    | .next t => safeFor k t
    | .fault _ => false
    | .refused _ => false

/-- The machine's invariant: what the rules of 10_state.md and 30_encoding.md say of every state a run
reaches. -/
structure Inv (s : State) : Prop where
  /-- the parameters meet R9 -/
  cfgWf : s.cfg.wf = true
  /-- `len(IN) <= IN_CAP` (R26) -/
  inFits : withinCap s.cfg.inCap s.inBuf.length = true
  /-- `OUT_LEN <= OUT_CAP` (R21) -/
  outFits : ∀ bs, s.out = some bs → withinCap s.cfg.outCap bs.length = true
  /-- a pending command has a word (R80) -/
  busyCmd : s.busy = true → s.cmd ≠ none
  /-- STATUS is NONE until a command has been issued (R24) -/
  freshStatus : s.cmd = none → s.status = .noneYet
  /-- a result register holds a value only after a success (R205, R235) -/
  resultOk : s.out ≠ none ∨ s.res ≠ none ∨ s.pos ≠ none → s.status = .ok
  /-- a success leaves OUT or RES (R75) -/
  okResult : s.status = .ok → s.out ≠ none ∨ s.res ≠ none
  /-- no operation leaves both OUT and RES (R75, R81) -/
  outNoRes : s.out ≠ none → s.res = none
  /-- POS comes only with RES (R75) -/
  posRes : s.pos ≠ none → s.res ≠ none

end Sys2Proof.Machine
end

