-- ==== Sys2Proof/Certificates/Slice0/Obligations.lean ====
section
/-! DEFINITION. The statements for the provers. The namespace Ref holds what they are stated against, each
written from the spec's words and not from the model's loops. -/

namespace Sys2Proof.Ref
open Sys2Proof.Machine

/-! ### The next states of the rules, as plain record updates -/

/-- Success with OUT = `bs`: RES and POS hold ⊥, STATUS = OK, BUSY = 0, all else unchanged (R75, R81). -/
def wrote (bs : List Byte) (s : State) : State :=
  { s with out := some bs, res := none, pos := none, status := .ok, busy := false }

/-- Success with RES = `v`: OUT and POS hold ⊥, STATUS = OK, BUSY = 0, all else unchanged (R75, R81). -/
def resulted (v : Word64) (s : State) : State :=
  { s with out := none, res := some v, pos := none, status := .ok, busy := false }

/-- Success with RES = `v` and POS = `q`: OUT holds ⊥, STATUS = OK, BUSY = 0, all else unchanged (R75, R81). -/
def decoded (v q : Word64) (s : State) : State :=
  { s with out := none, res := some v, pos := some q, status := .ok, busy := false }

/-- Failure with status `st`: every output register holds ⊥, BUSY = 0, all else unchanged (R205). -/
def failed (st : Status) (s : State) : State :=
  { s with out := none, res := none, pos := none, status := st, busy := false }

/-- The host has read `v`; no register changes (R55). -/
def noted (v : ReadVal) (s : State) : State := { s with agent := { s.agent with lastRead := some v } }

/-- The host is at statement `k` of its program; no register changes. -/
def atStmt (k : Nat) (s : State) : State := { s with agent := { s.agent with pc := k } }

/-- The schedule's next entry is used up. -/
def popped (s : State) : State := { s with turns := s.turns.tail }

/-- The block makes the next step (log 1). -/
def blockMoves (s : State) : Prop := ∀ t, s.turns.head? = some t → t = .block

/-- `k` steps, stopping at the first fault or refusal. -/
def steps : Nat → State → Host.Outcome State Fault Refusal
  | 0, s => .next s
  | k + 1, s =>
    match step s with
    | .next t => steps k t
    | .fault f => .fault f
    | .refused r => .refused r

/-! ### CRC-32, bit by bit (R138) -/

/-- One round: shift right, XOR with the reflected polynomial if bit 0 was set. -/
def serialBit (c : Word32) : Word32 :=
  if c.getLsbD 0 then (c >>> 1) ^^^ 0xEDB88320#32 else c >>> 1

/-- One byte: XOR it in, eight rounds. -/
def serialByte (c : Word32) (b : Byte) : Word32 := serialBit^[8] (c ^^^ b.setWidth 32)

/-- The bit-serial checksum. -/
def serialCrc (bs : List Byte) : Word32 := bs.foldl serialByte 0xFFFFFFFF#32 ^^^ 0xFFFFFFFF#32

/-! ### COBS as relations (R100 to R113) -/

/-- `Stuffs bs out`: `out` is the stuffed form of `bs`, run by run. -/
inductive Stuffs : List Byte → List Byte → Prop where
  /-- the trailing code byte and the last run, shorter than 254 -/
  | last (run : List Byte) (hn : ∀ b ∈ run, b ≠ 0#8) (hl : run.length < 254) :
      Stuffs run (BitVec.ofNat 8 (run.length + 1) :: run)
  /-- a run ended by a zero byte -/
  | zero (run rest out : List Byte) (hn : ∀ b ∈ run, b ≠ 0#8) (hl : run.length < 254)
      (h : Stuffs rest out) :
      Stuffs (run ++ 0#8 :: rest) (BitVec.ofNat 8 (run.length + 1) :: (run ++ out))
  /-- a rollover: 254 non-zero bytes, emitted at once -/
  | rollover (run rest out : List Byte) (hn : ∀ b ∈ run, b ≠ 0#8) (hl : run.length = 254)
      (h : Stuffs rest out) :
      Stuffs (run ++ rest) (0xFF#8 :: (run ++ out))

/-- `Unstuffs bs out`: decoding `bs` succeeds with `out`. -/
inductive Unstuffs : List Byte → List Byte → Prop where
  /-- no byte left (R110) -/
  | empty : Unstuffs [] []
  /-- a zero in code-byte position ends decoding; what follows is ignored (R109) -/
  | stop (rest : List Byte) : Unstuffs (0#8 :: rest) []
  /-- a code byte whose literals are all that is left: no zero is appended (R110) -/
  | last (c : Byte) (lits : List Byte) (hc : c ≠ 0#8) (hl : lits.length + 1 = c.toNat) :
      Unstuffs (c :: lits) lits
  /-- a code byte below 255 with bytes left after its literals: a zero is appended (R110) -/
  | more (c : Byte) (lits rest out : List Byte) (hc : c ≠ 0#8) (hm : c ≠ 0xFF#8)
      (hl : lits.length + 1 = c.toNat) (hr : rest ≠ []) (h : Unstuffs rest out) :
      Unstuffs (c :: (lits ++ rest)) (lits ++ 0#8 :: out)
  /-- a code byte 255 with bytes left: nothing is appended (R110) -/
  | full (lits rest out : List Byte) (hl : lits.length = 254) (hr : rest ≠ []) (h : Unstuffs rest out) :
      Unstuffs (0xFF#8 :: (lits ++ rest)) (lits ++ out)

/-- `Blocks bs`: `bs` is a sequence of complete blocks, each a non-zero code byte and the literals it
announces. -/
inductive Blocks : List Byte → Prop where
  | nil : Blocks []
  | cons (c : Byte) (lits rest : List Byte) (hc : c ≠ 0#8) (hl : lits.length + 1 = c.toNat)
      (h : Blocks rest) : Blocks (c :: (lits ++ rest))

/-- The number of rollovers of R104: `floor(L/254)` for each maximal run of L non-zero bytes. The pieces
between the zero bytes are those runs, or empty. -/
def rollovers (bs : List Byte) : Nat := ((bs.splitOn 0#8).map fun run => run.length / 254).sum

/-! ### LEB128 as numbers (R151, R153) -/

/-- The byte has the continuation bit. -/
def more (b : Byte) : Prop := 128 ≤ b.toNat

/-- The number that the 7-bit groups of a byte sequence stand for, low-order first. -/
def value : List Byte → Nat
  | [] => 0
  | b :: bs => b.toNat % 128 + 128 * value bs

end Sys2Proof.Ref

open Sys2Proof Sys2Proof.Machine

/-! ### Encoding and the command cycle -/

/-- R77: the seven mnemonics and their command words, in both directions. -/
def Obligations.CommandWordsOfTheTable : Prop :=
  (encode .crc32 = 0x00000001#32 ∧ encode .cobsStuff = 0x00000002#32 ∧ encode .cobsStuffD = 0x00000102#32 ∧
    encode .cobsUnstuff = 0x00000003#32 ∧ encode .cobsUnstuffD = 0x00000103#32 ∧
    encode .varintEnc = 0x00000004#32 ∧ encode .varintDec = 0x00000005#32) ∧
  decode 0x00000001#32 = .ok .crc32 ∧ decode 0x00000002#32 = .ok .cobsStuff ∧
    decode 0x00000102#32 = .ok .cobsStuffD ∧ decode 0x00000003#32 = .ok .cobsUnstuff ∧
    decode 0x00000103#32 = .ok .cobsUnstuffD ∧ decode 0x00000004#32 = .ok .varintEnc ∧
    decode 0x00000005#32 = .ok .varintDec

/-- Over all 2^32 words, a word decodes to a command exactly if it is that command's encoding: no bit of
the word is dropped, and no other word falls through to a command. -/
def Obligations.DecodeIsTheInverseOfEncode : Prop :=
  ∀ (w : Word32) (i : Instr), decode w = .ok i ↔ w = encode i

/-- R74, with the fields as numbers: RSV_HI is `w / 512`, D is bit 8, RSV_LO is bits 7:4, OP is bits 3:0. -/
def Obligations.DecodeFollowsTheFieldRules : Prop :=
  ∀ w : Word32,
    (w.toNat / 512 ≠ 0 ∨ w.toNat / 16 % 16 ≠ 0 → ∃ r, decode w = .error r) ∧
    (w.toNat / 512 = 0 → w.toNat / 16 % 16 = 0 →
      (w.toNat % 16 = 1 → w.toNat / 256 % 2 = 0 → decode w = .ok .crc32) ∧
      (w.toNat % 16 = 2 → w.toNat / 256 % 2 = 0 → decode w = .ok .cobsStuff) ∧
      (w.toNat % 16 = 2 → w.toNat / 256 % 2 = 1 → decode w = .ok .cobsStuffD) ∧
      (w.toNat % 16 = 3 → w.toNat / 256 % 2 = 0 → decode w = .ok .cobsUnstuff) ∧
      (w.toNat % 16 = 3 → w.toNat / 256 % 2 = 1 → decode w = .ok .cobsUnstuffD) ∧
      (w.toNat % 16 = 4 → w.toNat / 256 % 2 = 0 → decode w = .ok .varintEnc) ∧
      (w.toNat % 16 = 5 → w.toNat / 256 % 2 = 0 → decode w = .ok .varintDec) ∧
      (w.toNat % 16 = 1 ∨ w.toNat % 16 = 4 ∨ w.toNat % 16 = 5 → w.toNat / 256 % 2 = 1 →
        ∃ r, decode w = .error r) ∧
      (w.toNat % 16 = 0 ∨ 6 ≤ w.toNat % 16 → ∃ r, decode w = .error r)) ∧
    ((∃ i, decode w = .ok i) ↔
      w ∈ [0x00000001#32, 0x00000002#32, 0x00000102#32, 0x00000003#32, 0x00000103#32, 0x00000004#32,
        0x00000005#32])

/-- A step runs the decoded command: when BUSY = 1 and the block moves, the step is the perform step, and when
CMD holds a command's word, that is the command's meaning (R20, R22, R81). What the step adds is the
schedule's used entry (log 1). -/
def Obligations.StepRunsThePendingCommand : Prop :=
  ∀ s : State, s.busy = true → Ref.blockMoves s →
    step s = perform (Ref.popped s) ∧
    ∀ (w : Word32) (i : Instr), s.cmd = some w → decode w = .ok i → step s = exec i (Ref.popped s)

/-- R201: the perform step of a word that is no command's ends with STATUS = 0x04 and no output, whatever IN
and ARG hold; the word stays in CMD, which the host cannot read. -/
def Obligations.IllegalWordCompletesWithIllegalCommand : Prop :=
  ∀ (s : State) (w : Word32), s.cmd = some w → (∀ i, w ≠ encode i) →
    perform s = .next (Ref.failed .illegalCommand s) ∧
    Status.illegalCommand.code = 0x04#8 ∧
    (Ref.failed .illegalCommand s).cmd = some w ∧
    hostAct (.read (.reg .cmd)) (Ref.failed .illegalCommand s) = .fault .cmdRead

/-- R73: a word with a reserved bit set is illegal whatever its OP and D values: its perform step ends in
ILLEGAL_COMMAND. -/
def Obligations.ReservedBitsAreIllegal : Prop :=
  ∀ (s : State) (w : Word32) (k : Nat), s.cmd = some w → w.getLsbD k = true →
    (4 ≤ k ∧ k ≤ 7 ∨ 9 ≤ k ∧ k ≤ 31) → perform s = .next (Ref.failed .illegalCommand s)

/-- R80: WriteCmd while BUSY = 0 writes CMD and BUSY and nothing else, after which the host can read only
BUSY; while BUSY = 1 it is refused. That MF5 is the fault reported also for a read of CMD or of a cell that
holds ⊥ is the model's choice (log 7). -/
def Obligations.WriteCmdIssues : Prop :=
  ∀ (s : State) (w : Word32),
    (s.busy = false →
      hostAct (.writeCmd w) s = .next { s with cmd := some w, busy := true } ∧
      ∀ q, q ≠ .reg .busy →
        hostAct (.read q) { s with cmd := some w, busy := true } = .fault .busyAccess) ∧
    (s.busy = true → hostAct (.writeCmd w) s = .fault .busyAccess)

/-! ### CRC32 -/

/-- R138: the CRC32 command, which works with the table, gives the bit-serial checksum of IN for every IN;
RES holds it zero-extended (R135), and nothing but OUT, RES, POS, STATUS and BUSY changes. The spec marks the
bit-serial algorithm as general knowledge (log 19). -/
def Obligations.Crc32GivesTheBitSerialChecksum : Prop :=
  ∀ s : State, exec .crc32 s = .next (Ref.resulted ((Ref.serialCrc s.inBuf).setWidth 64) s)

/-- R132: the listed ROM has 256 entries, and each is the value TableEntry computes. The spec marks that
algorithm as general knowledge (log 19). -/
def Obligations.CrcTableIsTheComputedTable : Prop :=
  crcRom.length = 256 ∧
  ∀ i : Byte, crcT i = Ref.serialBit^[8] (i.setWidth 32) ∧ crcRom[i.toNat]? = some (crcT i)

/-- R136: the two check values, and the trace on "123456789": for each byte the index, the table entry and
the register before and after. -/
def Obligations.ChecksumCheckValues : Prop :=
  (∀ s : State, s.inBuf = [0x31, 0x32, 0x33, 0x34, 0x35, 0x36, 0x37, 0x38, 0x39] →
    exec .crc32 s = .next (Ref.resulted 0xCBF43926#64 s)) ∧
  (∀ s : State, s.inBuf = [] → exec .crc32 s = .next (Ref.resulted 0#64 s)) ∧
  (0xFFFFFFFF#32 ^^^ 0x31#32) &&& 0xFF#32 = 0xCE#32 ∧ crcT 0xCE#8 = 0x7CDCEFB7#32 ∧
    crcUpdate 0xFFFFFFFF#32 0x31#8 = 0x7C231048#32 ∧
  (0x7C231048#32 ^^^ 0x32#32) &&& 0xFF#32 = 0x7A#32 ∧ crcT 0x7A#8 = 0xB0D09822#32 ∧
    crcUpdate 0x7C231048#32 0x32#8 = 0xB0ACBB32#32 ∧
  (0xB0ACBB32#32 ^^^ 0x33#32) &&& 0xFF#32 = 0x01#32 ∧ crcT 0x01#8 = 0x77073096#32 ∧
    crcUpdate 0xB0ACBB32#32 0x33#8 = 0x77B79C2D#32 ∧
  (0x77B79C2D#32 ^^^ 0x34#32) &&& 0xFF#32 = 0x19#32 ∧ crcT 0x19#8 = 0x646BA8C0#32 ∧
    crcUpdate 0x77B79C2D#32 0x34#8 = 0x641C1F5C#32 ∧
  (0x641C1F5C#32 ^^^ 0x35#32) &&& 0xFF#32 = 0x69#32 ∧ crcT 0x69#8 = 0x346ED9FC#32 ∧
    crcUpdate 0x641C1F5C#32 0x35#8 = 0x340AC5E3#32 ∧
  (0x340AC5E3#32 ^^^ 0x36#32) &&& 0xFF#32 = 0xD5#32 ∧ crcT 0xD5#8 = 0xF6B9265B#32 ∧
    crcUpdate 0x340AC5E3#32 0x36#8 = 0xF68D2C9E#32 ∧
  (0xF68D2C9E#32 ^^^ 0x37#32) &&& 0xFF#32 = 0xA9#32 ∧ crcT 0xA9#8 = 0xAF0A1B4C#32 ∧
    crcUpdate 0xF68D2C9E#32 0x37#8 = 0xAFFC9660#32 ∧
  (0xAFFC9660#32 ^^^ 0x38#32) &&& 0xFF#32 = 0x58#32 ∧ crcT 0x58#8 = 0x65B0D9C6#32 ∧
    crcUpdate 0xAFFC9660#32 0x38#8 = 0x651F2550#32 ∧
  (0x651F2550#32 ^^^ 0x39#32) &&& 0xFF#32 = 0x69#32 ∧ crcT 0x69#8 = 0x346ED9FC#32 ∧
    crcUpdate 0x651F2550#32 0x39#8 = 0x340BC6D9#32 ∧
  0x340BC6D9#32 ^^^ 0xFFFFFFFF#32 = 0xCBF43926#32

/-- R137: the CRC of a single byte, in terms of the table. -/
def Obligations.ChecksumOfOneByte : Prop :=
  ∀ (s : State) (b : Byte), s.inBuf = [b] →
    exec .crc32 s = .next (Ref.resulted ((crcT (0xFF#8 ^^^ b) ^^^ 0xFF000000#32).setWidth 64) s)

/-! ### COBS -/

/-- R100 to R103: COBS_STUFF with D = 0 always succeeds, and OUT is the one sequence that the run by run
reading of the algorithm (with the eager rollover of R101) relates to IN. -/
def Obligations.StuffFollowsTheRuns : Prop :=
  ∀ s : State, ∃ bs, exec .cobsStuff s = .next (Ref.wrote bs s) ∧
    ∀ bs', Ref.Stuffs s.inBuf bs' ↔ bs' = bs

/-- R105: with D = 1, COBS_STUFF gives what it gives with D = 0 (the document's stuff(IN)), with one zero
byte appended. -/
def Obligations.StuffWithDelimiterAppendsOneZero : Prop :=
  ∀ s : State, ∃ bs, Ref.Stuffs s.inBuf bs ∧ exec .cobsStuff s = .next (Ref.wrote bs s) ∧
    exec .cobsStuffD s = .next (Ref.wrote (bs ++ [0#8]) s)

/-- R102: with D = 0 no byte of OUT is zero; with D = 1 the only zero is the last byte. -/
def Obligations.StuffedOutputHasNoZero : Prop :=
  ∀ s : State, ∃ bs, (∀ b ∈ bs, b ≠ 0#8) ∧ exec .cobsStuff s = .next (Ref.wrote bs s) ∧
    exec .cobsStuffD s = .next (Ref.wrote (bs ++ [0#8]) s)

/-- R104: the exact output length and the bounds, and one more with D = 1. -/
def Obligations.StuffedLength : Prop :=
  ∀ s : State, ∃ bs ds, exec .cobsStuff s = .next (Ref.wrote bs s) ∧
    exec .cobsStuffD s = .next (Ref.wrote ds s) ∧
    bs.length = s.inBuf.length + 1 + Ref.rollovers s.inBuf ∧
    s.inBuf.length + 1 ≤ bs.length ∧ bs.length ≤ s.inBuf.length + s.inBuf.length / 254 + 1 ∧
    bs.length ≤ s.inBuf.length + (s.inBuf.length + 253) / 254 + 1 ∧
    ds.length = bs.length + 1

/-- R107 to R111: COBS_UNSTUFF with D = 0 succeeds with exactly the sequences that the relation Unstuffs
gives for IN, and ends in FRAMING_ERROR where there is none. -/
def Obligations.UnstuffFollowsTheBlocks : Prop :=
  ∀ s : State,
    (∀ bs, Ref.Unstuffs s.inBuf bs → exec .cobsUnstuff s = .next (Ref.wrote bs s)) ∧
    ((∀ bs, ¬ Ref.Unstuffs s.inBuf bs) → exec .cobsUnstuff s = .next (Ref.failed .framingError s))

/-- R113: with D = 1 one trailing zero is dropped before decoding; when the last byte is not zero, D = 1 acts
as D = 0. -/
def Obligations.UnstuffStripsOneDelimiter : Prop :=
  ∀ s : State,
    (∀ body, s.inBuf = body ++ [0#8] →
      (∀ bs, Ref.Unstuffs body bs → exec .cobsUnstuffD s = .next (Ref.wrote bs s)) ∧
      ((∀ bs, ¬ Ref.Unstuffs body bs) → exec .cobsUnstuffD s = .next (Ref.failed .framingError s))) ∧
    ((∀ body, s.inBuf ≠ body ++ [0#8]) → exec .cobsUnstuffD s = exec .cobsUnstuff s)

/-- R108: FRAMING_ERROR exactly when, after complete blocks, a non-zero code byte claims more literal bytes
than remain; with D = 1, in the input without its trailing zero. -/
def Obligations.FramingErrorExactlyOnAShortRun : Prop :=
  ∀ s : State,
    (exec .cobsUnstuff s = .next (Ref.failed .framingError s) ↔
      ∃ good c rest, s.inBuf = good ++ c :: rest ∧ Ref.Blocks good ∧ c ≠ 0#8 ∧
        rest.length < c.toNat - 1) ∧
    (exec .cobsUnstuffD s = .next (Ref.failed .framingError s) ↔
      ∃ n good c rest, n = (if s.inBuf.getLast? = some 0#8 then s.inBuf.length - 1 else s.inBuf.length) ∧
        s.inBuf.take n = good ++ c :: rest ∧ Ref.Blocks good ∧ c ≠ 0#8 ∧ rest.length < c.toNat - 1)

/-- R109: a zero in code-byte position ends decoding with success, whatever follows it; at index 0 the
output is empty. With D = 1 the same holds when the zero is not itself the trailing byte that is dropped
first, and the output of a lone zero is empty too (R113). -/
def Obligations.UnstuffStopsAtAZeroCodeByte : Prop :=
  (∀ good, Ref.Blocks good → ∃ bs, ∀ (s : State) (rest : List Byte), s.inBuf = good ++ 0#8 :: rest →
    exec .cobsUnstuff s = .next (Ref.wrote bs s) ∧
    (rest ≠ [] → exec .cobsUnstuffD s = .next (Ref.wrote bs s))) ∧
  ∀ (s : State) (rest : List Byte), s.inBuf = 0#8 :: rest →
    exec .cobsUnstuff s = .next (Ref.wrote [] s) ∧ exec .cobsUnstuffD s = .next (Ref.wrote [] s)

/-- R112: on success the output is no longer than the (stripped) input. -/
def Obligations.UnstuffedLength : Prop :=
  ∀ (s t : State) (bs : List Byte), t.out = some bs →
    (exec .cobsUnstuff s = .next t → bs.length ≤ s.inBuf.length) ∧
    (exec .cobsUnstuffD s = .next t →
      bs.length ≤ (if s.inBuf.getLast? = some 0#8 then s.inBuf.length - 1 else s.inBuf.length))

/-- R114: the round trips. `r` is any state whose IN is the encoder's OUT. -/
def Obligations.CobsRoundTrip : Prop :=
  ∀ s : State, ∃ e d,
    exec .cobsStuff s = .next (Ref.wrote e s) ∧ exec .cobsStuffD s = .next (Ref.wrote d s) ∧
    (∀ r : State, r.inBuf = e → exec .cobsUnstuff r = .next (Ref.wrote s.inBuf r)) ∧
    (∀ r : State, r.inBuf = d → exec .cobsUnstuffD r = .next (Ref.wrote s.inBuf r)) ∧
    (∀ r : State, r.inBuf = d → exec .cobsUnstuff r = .next (Ref.wrote (s.inBuf ++ [0#8]) r))

/-! ### LEB128 -/

/-- R151: VARINT_ENC with ARG = v gives the groups of v, low-order first, with the continuation bit on all
but the last, and the shortest such form. -/
def Obligations.VarintEncGroups : Prop :=
  ∀ (s : State) (v : Word64), s.arg = some v →
    ∃ bs, exec .varintEnc s = .next (Ref.wrote bs s) ∧ bs ≠ [] ∧ v.toNat < 2 ^ (7 * bs.length) ∧
      (∀ k b, bs[k]? = some b →
        b.toNat = v.toNat / 2 ^ (7 * k) % 128 + (if k + 1 < bs.length then 128 else 0)) ∧
      (v ≠ 0#64 → bs.getLast? ≠ some 0#8)

/-- R152: the length of the encoding, as a formula and as bands; at most ten bytes, the tenth being 0x01; and
the rule's corner cases. -/
def Obligations.VarintEncLength : Prop :=
  ∀ (s : State) (v : Word64), s.arg = some v →
    ∃ bs, exec .varintEnc s = .next (Ref.wrote bs s) ∧
      bs.length = max 1 ((Nat.size v.toNat + 6) / 7) ∧
      (bs.length = 1 ↔ v.toNat < 128) ∧
      (∀ n, 2 ≤ n → (bs.length = n ↔ 2 ^ (7 * (n - 1)) ≤ v.toNat ∧ v.toNat < 2 ^ (7 * n))) ∧
      bs.length ≤ 10 ∧ (∀ b, bs[9]? = some b → b = 0x01#8) ∧
      (v = 0#64 → bs = [0x00#8]) ∧ (v = 127#64 → bs = [0x7F#8]) ∧ (v = 128#64 → bs = [0x80#8, 0x01#8]) ∧
      (v = 0xFFFFFFFF#64 → bs = [0xFF#8, 0xFF#8, 0xFF#8, 0xFF#8, 0x0F#8]) ∧
      (v = 0xFFFFFFFFFFFFFFFF#64 → bs = List.replicate 9 0xFF#8 ++ [0x01#8])

/-- MF4 (R25, R81, R210): with ARG = ⊥ both varint commands are model faults. -/
def Obligations.VarintNeedsArg : Prop :=
  ∀ s : State, s.arg = none →
    exec .varintEnc s = .fault .argBottom ∧ exec .varintDec s = .fault .argBottom

/-- R153, R157, R158: a varint of at most nine bytes at the start offset decodes to its value, redundant
groups included, with POS just past it, under both policies. Where that index does not fit 64 bits the
statement says nothing of POS but that it holds a value. -/
def Obligations.VarintDecValueAndPosition : Prop :=
  ∀ (s : State) (p : Word64) (before cont after : List Byte) (last : Byte),
    s.arg = some p → p.toNat = before.length → s.inBuf = before ++ cont ++ last :: after →
    (∀ b ∈ cont, Ref.more b) → cont.length ≤ 8 → ¬ Ref.more last →
    Ref.value (cont ++ [last]) < 2 ^ 64 ∧
    ∃ q, exec .varintDec s =
        .next (Ref.decoded (BitVec.ofNat 64 (Ref.value (cont ++ [last]))) q s) ∧
      (before.length + cont.length + 1 < 2 ^ 64 → q.toNat = before.length + cont.length + 1)

/-- R156: the tenth group. With payload 0 or 1 it is exact under both policies; above 1 it is
VARINT_OVERFLOW under REJECT (the default) and loses all but its bit 0 under TRUNCATE. -/
def Obligations.VarintTenthGroup : Prop :=
  State.reset.cfg.g10 = .reject ∧
  ∀ (s : State) (p : Word64) (before cont after : List Byte) (last : Byte),
    s.arg = some p → p.toNat = before.length → s.inBuf = before ++ cont ++ last :: after →
    (∀ b ∈ cont, Ref.more b) → cont.length = 9 → ¬ Ref.more last →
    (last.toNat ≤ 1 →
      Ref.value cont + last.toNat * 2 ^ 63 < 2 ^ 64 ∧
      ∃ q, exec .varintDec s =
          .next (Ref.decoded (BitVec.ofNat 64 (Ref.value cont + last.toNat * 2 ^ 63)) q s) ∧
        (before.length + 10 < 2 ^ 64 → q.toNat = before.length + 10)) ∧
    (2 ≤ last.toNat → s.cfg.g10 = .reject →
      exec .varintDec s = .next (Ref.failed .varintOverflow s)) ∧
    (2 ≤ last.toNat → s.cfg.g10 = .truncate →
      ∃ q, exec .varintDec s =
          .next (Ref.decoded (BitVec.ofNat 64 (Ref.value cont + last.toNat % 2 * 2 ^ 63)) q s) ∧
        (before.length + 10 < 2 ^ 64 → q.toNat = before.length + 10))

/-- R155: ten bytes with the continuation bit give VARINT_OVERFLOW, whatever follows; nine, and a tenth byte
0x01, are accepted. -/
def Obligations.VarintOverflowOnTenContinuations : Prop :=
  ∀ (s : State) (p : Word64) (before cont after : List Byte),
    s.arg = some p → p.toNat = before.length → (∀ b ∈ cont, Ref.more b) →
    (cont.length = 10 → s.inBuf = before ++ cont ++ after →
      exec .varintDec s = .next (Ref.failed .varintOverflow s)) ∧
    (cont.length = 9 → s.inBuf = before ++ cont ++ 0x01#8 :: after →
      ∃ v q, exec .varintDec s = .next (Ref.decoded v q s))

/-- R154: VARINT_TRUNCATED exactly when every byte from the start offset on carries the continuation bit and
there are at most nine of them; none at all, if the offset is at or past the end. -/
def Obligations.VarintTruncatedExactly : Prop :=
  ∀ (s : State) (p : Word64), s.arg = some p →
    (exec .varintDec s = .next (Ref.failed .varintTruncated s) ↔
      (∀ b ∈ s.inBuf.drop p.toNat, Ref.more b) ∧ (s.inBuf.drop p.toNat).length ≤ 9)

/-- R159: decoding an encoding at any offset, with anything after it, gives the value back and POS just
past it, under both policies. -/
def Obligations.VarintRoundTrip : Prop :=
  ∀ (s : State) (v : Word64), s.arg = some v →
    ∃ e, exec .varintEnc s = .next (Ref.wrote e s) ∧
      ∀ (r : State) (p : Word64) (before after : List Byte),
        r.arg = some p → p.toNat = before.length → r.inBuf = before ++ e ++ after →
        ∃ q, exec .varintDec r = .next (Ref.decoded v q r) ∧
          (before.length + e.length < 2 ^ 64 → q.toNat = before.length + e.length)

/-! ### Every perform step -/

/-- R205: a perform step that ends in a status other than OK writes STATUS, sets every output register to ⊥,
clears BUSY, and changes nothing else. -/
def Obligations.FailureLeavesOnlyStatus : Prop :=
  ∀ s t : State, perform s = .next t → t.status ≠ .ok → t = Ref.failed t.status s

/-- The frame of every command: IN, ARG, CMD, the parameters, the host and the schedule are unchanged, BUSY
is 0, and STATUS is one of the codes a command can end in (R75, R81, R82). -/
def Obligations.ExecFrame : Prop :=
  ∀ (i : Instr) (s t : State), exec i s = .next t →
    t.cmd = s.cmd ∧ t.arg = s.arg ∧ t.inBuf = s.inBuf ∧ t.cfg = s.cfg ∧ t.agent = s.agent ∧
    t.turns = s.turns ∧ t.busy = false ∧
    t.status ∈ [.ok, .framingError, .varintTruncated, .varintOverflow]

/-- Every output register that R75 does not list for a command holds ⊥ after it; the listed ones hold a
value exactly on success. -/
def Obligations.ExecOutputs : Prop :=
  ∀ (i : Instr) (s t : State), exec i s = .next t →
    (i = .crc32 → t.out = none ∧ t.pos = none ∧ t.status = .ok ∧ t.res ≠ none) ∧
    (i = .cobsStuff ∨ i = .cobsStuffD ∨ i = .varintEnc →
      t.res = none ∧ t.pos = none ∧ t.status = .ok ∧ t.out ≠ none) ∧
    (i = .cobsUnstuff ∨ i = .cobsUnstuffD →
      t.res = none ∧ t.pos = none ∧ (t.status = .ok ↔ t.out ≠ none)) ∧
    (i = .varintDec →
      t.out = none ∧ (t.status = .ok ↔ t.res ≠ none) ∧ (t.status = .ok ↔ t.pos ≠ none))

/-- R82, R210: a perform step of a pending command ends in a next state with BUSY = 0 and a written STATUS,
or in model fault MF4, which happens exactly for a varint command with ARG = ⊥. -/
def Obligations.PerformEndsOrLacksArg : Prop :=
  ∀ s : State, s.cmd ≠ none →
    ((∃ t, perform s = .next t ∧ t.busy = false ∧ t.status ≠ .noneYet) ∨ perform s = .fault .argBottom) ∧
    (perform s = .fault .argBottom ↔
      s.arg = none ∧ (s.cmd = some (encode .varintEnc) ∨ s.cmd = some (encode .varintDec)))

/-- No stale value passes for a result: a command's outcome depends only on IN, ARG and the tenth-group
policy, not on what the output registers, STATUS or anything else held before (R32, R81). -/
def Obligations.ResultsDependOnlyOnInputs : Prop :=
  ∀ (i : Instr) (s r : State), s.inBuf = r.inBuf → s.arg = r.arg → s.cfg.g10 = r.cfg.g10 →
    (∃ t u, exec i s = .next t ∧ exec i r = .next u ∧
      t.out = u.out ∧ t.res = u.res ∧ t.pos = u.pos ∧ t.status = u.status) ∨
    (∃ f, exec i s = .fault f ∧ exec i r = .fault f)

/-- The commands that take no operand from ARG ignore it: ARG can hold any value or none (R25, R75). -/
def Obligations.ArgIsIgnoredByTheOthers : Prop :=
  ∀ (i : Instr) (s : State) (a : Option Word64), needsArg i = false →
    ∃ t, exec i s = .next t ∧ exec i { s with arg := a } = .next { t with arg := a }

/-- R9: with capacities that meet its bound, no command's output overflows OUT. -/
def Obligations.OutputFitsOutCap : Prop :=
  ∀ (i : Instr) (s t : State) (bs : List Byte), s.cfg.wf = true →
    withinCap s.cfg.inCap s.inBuf.length = true → exec i s = .next t → t.out = some bs →
    withinCap s.cfg.outCap bs.length = true

/-- R200: the numeric values of the STATUS codes; no reserved code can be in STATUS. -/
def Obligations.StatusCodeValues : Prop :=
  (Status.ok.code = 0x00#8 ∧ Status.framingError.code = 0x01#8 ∧ Status.varintTruncated.code = 0x02#8 ∧
    Status.varintOverflow.code = 0x03#8 ∧ Status.illegalCommand.code = 0x04#8 ∧
    Status.noneYet.code = 0xFF#8) ∧
  ∀ s : State, ¬ (0x05 ≤ s.status.code.toNat ∧ s.status.code.toNat ≤ 0xFE)

/-! ### The host -/

/-- R37: while BUSY = 1 the host may only read BUSY; every other host action is refused. That MF5 is the
fault reported also where MF1, MF3 or MF6 applies is the model's choice (log 7), and so is the cell that
notes what was read (log 23). -/
def Obligations.BusyRefusesTheHost : Prop :=
  ∀ s : State, s.busy = true →
    hostAct (.read (.reg .busy)) s = .next (Ref.noted (.bit true) s) ∧
    ∀ a, a ≠ .read (.reg .busy) → hostAct a s = .fault .busyAccess

/-- R36, R54, R55: while BUSY = 0 a host read returns the register's current value, at its full width, and
changes no register. -/
def Obligations.ReadsReturnTheRegisters : Prop :=
  ∀ s : State, s.busy = false →
    hostAct (.read (.reg .busy)) s = .next (Ref.noted (.bit false) s) ∧
    hostAct (.read (.reg .status)) s = .next (Ref.noted (.byte s.status.code) s) ∧
    hostAct (.read (.reg .inBuf)) s = .next (Ref.noted (.bytes s.inBuf) s) ∧
    (s.inBuf.length < 2 ^ 64 →
      hostAct (.read (.reg .inLen)) s = .next (Ref.noted (.word (BitVec.ofNat 64 s.inBuf.length)) s)) ∧
    (∀ v, s.arg = some v → hostAct (.read (.reg .arg)) s = .next (Ref.noted (.word v) s)) ∧
    (∀ v, s.res = some v → hostAct (.read (.reg .res)) s = .next (Ref.noted (.word v) s)) ∧
    (∀ v, s.pos = some v → hostAct (.read (.reg .pos)) s = .next (Ref.noted (.word v) s)) ∧
    ∀ bs, s.out = some bs →
      hostAct (.read (.reg .out)) s = .next (Ref.noted (.bytes bs) s) ∧
      (bs.length < 2 ^ 64 →
        hostAct (.read (.reg .outLen)) s = .next (Ref.noted (.word (BitVec.ofNat 64 bs.length)) s)) ∧
      ∀ i b, bs[i]? = some b → hostAct (.read (.outByte i)) s = .next (Ref.noted (.byte b) s)

/-- R38, R210 MF1 to MF3: while BUSY = 0, a read of a register that holds ⊥, of OUT past its end, or of CMD
is a model fault. -/
def Obligations.ReadsWithoutAValueAreModelFaults : Prop :=
  ∀ s : State, s.busy = false →
    hostAct (.read (.reg .cmd)) s = .fault .cmdRead ∧
    (s.arg = none → hostAct (.read (.reg .arg)) s = .fault (.bottomRead .arg)) ∧
    (s.res = none → hostAct (.read (.reg .res)) s = .fault (.bottomRead .res)) ∧
    (s.pos = none → hostAct (.read (.reg .pos)) s = .fault (.bottomRead .pos)) ∧
    (s.out = none →
      hostAct (.read (.reg .out)) s = .fault (.bottomRead .out) ∧
      hostAct (.read (.reg .outLen)) s = .fault (.bottomRead .outLen) ∧
      ∀ i, hostAct (.read (.outByte i)) s = .fault (.bottomRead .out)) ∧
    ∀ bs i, s.out = some bs → bs.length ≤ i → hostAct (.read (.outByte i)) s = .fault (.outIndex i)

/-- R25, R26, R210 MF6: while BUSY = 0, WriteArg writes ARG alone; WriteIn writes IN alone, if the sequence
fits IN_CAP, and is refused if it does not. -/
def Obligations.InputWrites : Prop :=
  ∀ s : State, s.busy = false →
    (∀ v, hostAct (.writeArg v) s = .next { s with arg := some v }) ∧
    (∀ bs, s.cfg.inCap = none → hostAct (.writeIn bs) s = .next { s with inBuf := bs }) ∧
    ∀ bs cap, s.cfg.inCap = some cap →
      (bs.length ≤ cap → hostAct (.writeIn bs) s = .next { s with inBuf := bs }) ∧
      (cap < bs.length → hostAct (.writeIn bs) s = .fault .inCapExceeded)

/-- R59: the schedule's next entry is the next step: a host action, a statement of the host's program, or
nothing when the program is over (logs 1 and 11). -/
def Obligations.HostTurnsFollowTheSchedule : Prop :=
  ∀ (s : State) (ts : List Turn),
    (∀ a, s.turns = .host a :: ts → step s = hostAct a { s with turns := ts }) ∧
    (s.turns = .program :: ts →
      (∀ st, s.agent.prog[s.agent.pc]? = some st → step s = execStmt st { s with turns := ts }) ∧
      (s.agent.prog[s.agent.pc]? = none → step s = .next { s with turns := ts }))

/-! ### Whole-machine rules -/

/-- R230: the reset event sets every register to its reset value, whatever the state, and so aborts a
pending command. -/
def Obligations.ResetEventSetsEveryRegister : Prop :=
  ∀ (s : State) (ts : List Turn), s.turns = .reset :: ts →
    ∃ t, step s = .next t ∧ t.cmd = none ∧ t.busy = false ∧ t.status = .noneYet ∧
      Status.noneYet.code = 0xFF#8 ∧ t.arg = none ∧ t.inBuf = [] ∧ t.inLen = 0 ∧ t.out = none ∧
      t.outLen = none ∧ t.res = none ∧ t.pos = none

/-- R39, R230: the registers of the reset state. -/
def Obligations.ResetState : Prop :=
  State.reset.cmd = none ∧ State.reset.busy = false ∧ State.reset.status = .noneYet ∧
  State.reset.arg = none ∧ State.reset.inBuf = [] ∧ State.reset.inLen = 0 ∧ State.reset.out = none ∧
  State.reset.outLen = none ∧ State.reset.res = none ∧ State.reset.pos = none

/-- R216: an idle block keeps every register. That its turn is a step at all is the model's choice (log 6). -/
def Obligations.IdleBlockKeepsEveryRegister : Prop :=
  ∀ s : State, s.busy = false → Ref.blockMoves s → step s = .next (Ref.popped s)

/-- R22: a host write of CMD is the only way to start an operation: the host's WriteCmd action, or a `cmd`
statement of its program. -/
def Obligations.OnlyWriteCmdStartsTheBlock : Prop :=
  ∀ s t : State, step s = .next t → s.busy = false → t.busy = true →
    ∃ w, t.cmd = some w ∧
      (s.turns.head? = some (.host (.writeCmd w)) ∨
        s.turns.head? = some .program ∧
          (s.agent.prog[s.agent.pc]? = some (.cmdWord w) ∨
            ∃ i, s.agent.prog[s.agent.pc]? = some (.cmd i) ∧ w = encode i))

/-- R24, R27, R28, R30: STATUS, OUT, RES and POS change only in a perform step or by reset. -/
def Obligations.OnlyPerformWritesOutputs : Prop :=
  ∀ s t : State, step s = .next t →
    (t.status ≠ s.status ∨ t.out ≠ s.out ∨ t.res ≠ s.res ∨ t.pos ≠ s.pos) →
    Ref.blockMoves s ∧ s.busy = true ∨ s.turns.head? = some .reset

/-- R22, R25, R26: IN, ARG and CMD change only by the host while BUSY = 0, or by reset: the block never
writes them. -/
def Obligations.OnlyTheHostWritesInputs : Prop :=
  ∀ s t : State, step s = .next t → (t.inBuf ≠ s.inBuf ∨ t.arg ≠ s.arg ∨ t.cmd ≠ s.cmd) →
    ¬ Ref.blockMoves s ∧ (s.busy = false ∨ s.turns.head? = some .reset)

/-- R37, R59: while a command is pending no step of the host changes a register. -/
def Obligations.HostStepsWhileBusyChangeNoRegister : Prop :=
  ∀ s t : State, s.busy = true → ¬ Ref.blockMoves s → s.turns.head? ≠ some .reset → step s = .next t →
    t = { Ref.popped s with agent := t.agent }

/-- R9: the parameters are fixed: no step changes them. -/
def Obligations.ParametersAreFixed : Prop := ∀ s t : State, step s = .next t → t.cfg = s.cfg

/-- The invariant holds at reset. -/
def Obligations.ResetMeetsTheInvariant : Prop := Inv State.reset

/-- Every step of the block, the host, its program or the reset event keeps the invariant: IN and OUT fit
their capacities (R9, R21, R26), a pending command has a word (R80), result registers hold values only after
a success and only the ones the command wrote (R75, R205, R235), STATUS is NONE until a command is issued
(R24). -/
def Obligations.StepKeepsTheInvariant : Prop := ∀ s t : State, Inv s → step s = .next t → Inv t

/-- R237, R59 (2): a host that polls BUSY n times sees 1 each time while the command is pending, and after
the block's step BUSY is 0 with every output in place, as the perform step from the first state gives them.
That the block moves when the schedule is used up is the model's choice (log 1). -/
def Obligations.PollingSeesTheCompletion : Prop :=
  ∀ (n : Nat) (s : State), s.busy = true → performReady s = true →
    s.turns = List.replicate n (.host (.read (.reg .busy))) →
    (∀ k, k ≤ n → ∃ r, Ref.steps k s = .next r ∧ r.busy = true) ∧
    ∃ t u, Ref.steps (n + 1) s = .next t ∧ perform s = .next u ∧ t.busy = false ∧
      t.status = u.status ∧ t.out = u.out ∧ t.res = u.res ∧ t.pos = u.pos

/-! ### The host assembly -/

/-- R78: `cmd <mnemonic>` and `cmd <word>` write CMD, legal or not, and the host goes on; `wait` stays while
BUSY is 1 and goes on when it is 0. Each is one step of the host's program. -/
def Obligations.CmdAndWaitStatements : Prop :=
  ∀ (s : State) (ts : List Turn), s.turns = .program :: ts →
    (∀ w, s.agent.prog[s.agent.pc]? = some (.cmdWord w) → s.busy = false →
      step s = .next (Ref.atStmt (s.agent.pc + 1) { Ref.popped s with cmd := some w, busy := true })) ∧
    (∀ i, s.agent.prog[s.agent.pc]? = some (.cmd i) → s.busy = false →
      step s = .next (Ref.atStmt (s.agent.pc + 1) { Ref.popped s with cmd := some (encode i), busy := true })) ∧
    (s.agent.prog[s.agent.pc]? = some .wait →
      (s.busy = true → step s = .next (Ref.popped s)) ∧
      (s.busy = false → step s = .next (Ref.atStmt (s.agent.pc + 1) (Ref.popped s))))

/-- R78, R236: `in out` and `arg res`, `arg pos` chain a result into an input while BUSY = 0; with a
concatenation, IN gets both parts in order. A sequence that does not fit IN_CAP is MF6, a register that holds
⊥ is MF1 (R210). That each is one step of the host is the model's choice (logs 1, 9 and 12). -/
def Obligations.ChainingStatements : Prop :=
  ∀ (s : State) (ts : List Turn), s.turns = .program :: ts → s.busy = false →
    (s.agent.prog[s.agent.pc]? = some (.inSeq .out) →
      (∀ bs, s.out = some bs → (∀ cap, s.cfg.inCap = some cap → bs.length ≤ cap) →
        step s = .next (Ref.atStmt (s.agent.pc + 1) { Ref.popped s with inBuf := bs })) ∧
      (∀ bs cap, s.out = some bs → s.cfg.inCap = some cap → cap < bs.length →
        step s = .fault .inCapExceeded) ∧
      (s.out = none → step s = .fault (.bottomRead .out))) ∧
    (∀ xs, s.agent.prog[s.agent.pc]? = some (.inSeq (.cat (.bytes xs) .out)) →
      (∀ bs, s.out = some bs → (∀ cap, s.cfg.inCap = some cap → xs.length + bs.length ≤ cap) →
        step s = .next (Ref.atStmt (s.agent.pc + 1) { Ref.popped s with inBuf := xs ++ bs })) ∧
      (∀ bs cap, s.out = some bs → s.cfg.inCap = some cap → cap < xs.length + bs.length →
        step s = .fault .inCapExceeded) ∧
      (s.out = none → step s = .fault (.bottomRead .out))) ∧
    (s.agent.prog[s.agent.pc]? = some (.arg .res) →
      (∀ v, s.res = some v →
        step s = .next (Ref.atStmt (s.agent.pc + 1) { Ref.popped s with arg := some v })) ∧
      (s.res = none → step s = .fault (.bottomRead .res))) ∧
    (s.agent.prog[s.agent.pc]? = some (.arg .pos) →
      (∀ v, s.pos = some v →
        step s = .next (Ref.atStmt (s.agent.pc + 1) { Ref.popped s with arg := some v })) ∧
      (s.pos = none → step s = .fault (.bottomRead .pos)))

/-- R78: `bne.status` goes on when STATUS is the code, and to the label when it differs; `b` goes to the
label; a label is passed; `halt` ends the program. The model's choices in it: of equal labels the first is
the target (log 10), labels are numbers (log 9), a turn after `halt` changes nothing (log 11), and the
schedule (log 1). -/
def Obligations.ControlStatements : Prop :=
  ∀ (s : State) (ts : List Turn), s.turns = .program :: ts →
    (∀ l k, (∀ j, j < k → s.agent.prog[j]? ≠ some (.label l)) → s.agent.prog[k]? = some (.label l) →
      (s.agent.prog[s.agent.pc]? = some (.b l) → step s = .next (Ref.atStmt k (Ref.popped s))) ∧
      ∀ code, s.agent.prog[s.agent.pc]? = some (.bneStatus code l) → s.busy = false →
        (s.status.code ≠ code → step s = .next (Ref.atStmt k (Ref.popped s))) ∧
        (s.status.code = code → step s = .next (Ref.atStmt (s.agent.pc + 1) (Ref.popped s)))) ∧
    (∀ l, s.agent.prog[s.agent.pc]? = some (.label l) →
      step s = .next (Ref.atStmt (s.agent.pc + 1) (Ref.popped s))) ∧
    (s.agent.prog[s.agent.pc]? = some .halt → step s = .next (Ref.popped s))

/-- R78: a `save` and then a use gives the saved value: `save x, out` and then `in x` writes the saved bytes to
IN, `save x, res` and then `arg x` the saved number to ARG. -/
def Obligations.SavedVariablesAreRecalled : Prop :=
  ∀ (s : State) (x : Nat), s.turns = [.program, .program] → s.busy = false →
    (∀ bs, s.agent.prog[s.agent.pc]? = some (.save x .out) →
      s.agent.prog[s.agent.pc + 1]? = some (.inSeq (.var x)) → s.out = some bs →
      (∀ cap, s.cfg.inCap = some cap → bs.length ≤ cap) →
      ∃ t, Ref.steps 2 s = .next t ∧ t.inBuf = bs ∧ t.agent.pc = s.agent.pc + 2 ∧ t.out = s.out) ∧
    (∀ v, s.agent.prog[s.agent.pc]? = some (.save x .res) →
      s.agent.prog[s.agent.pc + 1]? = some (.arg (.var x)) → s.res = some v →
      ∃ t, Ref.steps 2 s = .next t ∧ t.arg = some v ∧ t.agent.pc = s.agent.pc + 2 ∧ t.res = s.res)

/-- R79: `run <mnemonic>` is `cmd` and then `wait`: issued while BUSY = 0, with the block moving in between,
it leaves the host past the `wait` with the command's results in place. -/
def Obligations.RunIssuesAndWaits : Prop :=
  ∀ (s u : State) (i : Instr), s.busy = false → s.turns = [.program, .block, .program] →
    Stmt.run i = [.cmd i, .wait] ∧
    (s.agent.prog[s.agent.pc]? = some (.cmd i) → s.agent.prog[s.agent.pc + 1]? = some .wait →
      exec i { s with cmd := some (encode i), busy := true } = .next u →
      Ref.steps 3 s = .next { Ref.atStmt (s.agent.pc + 2) u with turns := [] })
end

