-- ==== Sys2Proof/Laws/State.lean ====
section
/-! SUPPORT. One lemma per field for every named update of the state, true by definition: no later proof
unfolds a record update. -/

namespace Sys2Proof.Machine

@[simp] theorem clearOutputs_cfg (s : State) : (clearOutputs s).cfg = s.cfg := rfl
@[simp] theorem clearOutputs_cmd (s : State) : (clearOutputs s).cmd = s.cmd := rfl
@[simp] theorem clearOutputs_busy (s : State) : (clearOutputs s).busy = s.busy := rfl
@[simp] theorem clearOutputs_status (s : State) : (clearOutputs s).status = s.status := rfl
@[simp] theorem clearOutputs_arg (s : State) : (clearOutputs s).arg = s.arg := rfl
@[simp] theorem clearOutputs_inBuf (s : State) : (clearOutputs s).inBuf = s.inBuf := rfl
@[simp] theorem clearOutputs_out (s : State) : (clearOutputs s).out = none := rfl
@[simp] theorem clearOutputs_res (s : State) : (clearOutputs s).res = none := rfl
@[simp] theorem clearOutputs_pos (s : State) : (clearOutputs s).pos = none := rfl
@[simp] theorem clearOutputs_agent (s : State) : (clearOutputs s).agent = s.agent := rfl
@[simp] theorem clearOutputs_turns (s : State) : (clearOutputs s).turns = s.turns := rfl

@[simp] theorem finish_cfg (st : Status) (s : State) : (finish st s).cfg = s.cfg := rfl
@[simp] theorem finish_cmd (st : Status) (s : State) : (finish st s).cmd = s.cmd := rfl
@[simp] theorem finish_busy (st : Status) (s : State) : (finish st s).busy = false := rfl
@[simp] theorem finish_status (st : Status) (s : State) : (finish st s).status = st := rfl
@[simp] theorem finish_arg (st : Status) (s : State) : (finish st s).arg = s.arg := rfl
@[simp] theorem finish_inBuf (st : Status) (s : State) : (finish st s).inBuf = s.inBuf := rfl
@[simp] theorem finish_out (st : Status) (s : State) : (finish st s).out = s.out := rfl
@[simp] theorem finish_res (st : Status) (s : State) : (finish st s).res = s.res := rfl
@[simp] theorem finish_pos (st : Status) (s : State) : (finish st s).pos = s.pos := rfl
@[simp] theorem finish_agent (st : Status) (s : State) : (finish st s).agent = s.agent := rfl
@[simp] theorem finish_turns (st : Status) (s : State) : (finish st s).turns = s.turns := rfl

@[simp] theorem raise_cfg (st : Status) (s : State) : (raise st s).cfg = s.cfg := rfl
@[simp] theorem raise_cmd (st : Status) (s : State) : (raise st s).cmd = s.cmd := rfl
@[simp] theorem raise_busy (st : Status) (s : State) : (raise st s).busy = false := rfl
@[simp] theorem raise_status (st : Status) (s : State) : (raise st s).status = st := rfl
@[simp] theorem raise_arg (st : Status) (s : State) : (raise st s).arg = s.arg := rfl
@[simp] theorem raise_inBuf (st : Status) (s : State) : (raise st s).inBuf = s.inBuf := rfl
@[simp] theorem raise_out (st : Status) (s : State) : (raise st s).out = none := rfl
@[simp] theorem raise_res (st : Status) (s : State) : (raise st s).res = none := rfl
@[simp] theorem raise_pos (st : Status) (s : State) : (raise st s).pos = none := rfl
@[simp] theorem raise_agent (st : Status) (s : State) : (raise st s).agent = s.agent := rfl
@[simp] theorem raise_turns (st : Status) (s : State) : (raise st s).turns = s.turns := rfl

@[simp] theorem succeedOut_cfg (bs : List Byte) (s : State) : (succeedOut bs s).cfg = s.cfg := rfl
@[simp] theorem succeedOut_cmd (bs : List Byte) (s : State) : (succeedOut bs s).cmd = s.cmd := rfl
@[simp] theorem succeedOut_busy (bs : List Byte) (s : State) : (succeedOut bs s).busy = false := rfl
@[simp] theorem succeedOut_status (bs : List Byte) (s : State) : (succeedOut bs s).status = .ok := rfl
@[simp] theorem succeedOut_arg (bs : List Byte) (s : State) : (succeedOut bs s).arg = s.arg := rfl
@[simp] theorem succeedOut_inBuf (bs : List Byte) (s : State) : (succeedOut bs s).inBuf = s.inBuf := rfl
@[simp] theorem succeedOut_out (bs : List Byte) (s : State) : (succeedOut bs s).out = some bs := rfl
@[simp] theorem succeedOut_res (bs : List Byte) (s : State) : (succeedOut bs s).res = none := rfl
@[simp] theorem succeedOut_pos (bs : List Byte) (s : State) : (succeedOut bs s).pos = none := rfl
@[simp] theorem succeedOut_agent (bs : List Byte) (s : State) : (succeedOut bs s).agent = s.agent := rfl
@[simp] theorem succeedOut_turns (bs : List Byte) (s : State) : (succeedOut bs s).turns = s.turns := rfl

@[simp] theorem succeedRes_cfg (v : Word64) (s : State) : (succeedRes v s).cfg = s.cfg := rfl
@[simp] theorem succeedRes_cmd (v : Word64) (s : State) : (succeedRes v s).cmd = s.cmd := rfl
@[simp] theorem succeedRes_busy (v : Word64) (s : State) : (succeedRes v s).busy = false := rfl
@[simp] theorem succeedRes_status (v : Word64) (s : State) : (succeedRes v s).status = .ok := rfl
@[simp] theorem succeedRes_arg (v : Word64) (s : State) : (succeedRes v s).arg = s.arg := rfl
@[simp] theorem succeedRes_inBuf (v : Word64) (s : State) : (succeedRes v s).inBuf = s.inBuf := rfl
@[simp] theorem succeedRes_out (v : Word64) (s : State) : (succeedRes v s).out = none := rfl
@[simp] theorem succeedRes_res (v : Word64) (s : State) : (succeedRes v s).res = some v := rfl
@[simp] theorem succeedRes_pos (v : Word64) (s : State) : (succeedRes v s).pos = none := rfl
@[simp] theorem succeedRes_agent (v : Word64) (s : State) : (succeedRes v s).agent = s.agent := rfl
@[simp] theorem succeedRes_turns (v : Word64) (s : State) : (succeedRes v s).turns = s.turns := rfl

@[simp] theorem succeedResPos_cfg (v : Word64) (p : Nat) (s : State) : (succeedResPos v p s).cfg = s.cfg := rfl
@[simp] theorem succeedResPos_cmd (v : Word64) (p : Nat) (s : State) : (succeedResPos v p s).cmd = s.cmd := rfl
@[simp] theorem succeedResPos_busy (v : Word64) (p : Nat) (s : State) : (succeedResPos v p s).busy = false := rfl
@[simp] theorem succeedResPos_status (v : Word64) (p : Nat) (s : State) : (succeedResPos v p s).status = .ok := rfl
@[simp] theorem succeedResPos_arg (v : Word64) (p : Nat) (s : State) : (succeedResPos v p s).arg = s.arg := rfl
@[simp] theorem succeedResPos_inBuf (v : Word64) (p : Nat) (s : State) : (succeedResPos v p s).inBuf = s.inBuf := rfl
@[simp] theorem succeedResPos_out (v : Word64) (p : Nat) (s : State) : (succeedResPos v p s).out = none := rfl
@[simp] theorem succeedResPos_res (v : Word64) (p : Nat) (s : State) : (succeedResPos v p s).res = some v := rfl
@[simp] theorem succeedResPos_pos (v : Word64) (p : Nat) (s : State) : (succeedResPos v p s).pos = some (lenWord p) := rfl
@[simp] theorem succeedResPos_agent (v : Word64) (p : Nat) (s : State) : (succeedResPos v p s).agent = s.agent := rfl
@[simp] theorem succeedResPos_turns (v : Word64) (p : Nat) (s : State) : (succeedResPos v p s).turns = s.turns := rfl

@[simp] theorem setIn_cfg (bs : List Byte) (s : State) : (setIn bs s).cfg = s.cfg := rfl
@[simp] theorem setIn_cmd (bs : List Byte) (s : State) : (setIn bs s).cmd = s.cmd := rfl
@[simp] theorem setIn_busy (bs : List Byte) (s : State) : (setIn bs s).busy = s.busy := rfl
@[simp] theorem setIn_status (bs : List Byte) (s : State) : (setIn bs s).status = s.status := rfl
@[simp] theorem setIn_arg (bs : List Byte) (s : State) : (setIn bs s).arg = s.arg := rfl
@[simp] theorem setIn_inBuf (bs : List Byte) (s : State) : (setIn bs s).inBuf = bs := rfl
@[simp] theorem setIn_out (bs : List Byte) (s : State) : (setIn bs s).out = s.out := rfl
@[simp] theorem setIn_res (bs : List Byte) (s : State) : (setIn bs s).res = s.res := rfl
@[simp] theorem setIn_pos (bs : List Byte) (s : State) : (setIn bs s).pos = s.pos := rfl
@[simp] theorem setIn_agent (bs : List Byte) (s : State) : (setIn bs s).agent = s.agent := rfl
@[simp] theorem setIn_turns (bs : List Byte) (s : State) : (setIn bs s).turns = s.turns := rfl

@[simp] theorem setArg_cfg (v : Word64) (s : State) : (setArg v s).cfg = s.cfg := rfl
@[simp] theorem setArg_cmd (v : Word64) (s : State) : (setArg v s).cmd = s.cmd := rfl
@[simp] theorem setArg_busy (v : Word64) (s : State) : (setArg v s).busy = s.busy := rfl
@[simp] theorem setArg_status (v : Word64) (s : State) : (setArg v s).status = s.status := rfl
@[simp] theorem setArg_arg (v : Word64) (s : State) : (setArg v s).arg = some v := rfl
@[simp] theorem setArg_inBuf (v : Word64) (s : State) : (setArg v s).inBuf = s.inBuf := rfl
@[simp] theorem setArg_out (v : Word64) (s : State) : (setArg v s).out = s.out := rfl
@[simp] theorem setArg_res (v : Word64) (s : State) : (setArg v s).res = s.res := rfl
@[simp] theorem setArg_pos (v : Word64) (s : State) : (setArg v s).pos = s.pos := rfl
@[simp] theorem setArg_agent (v : Word64) (s : State) : (setArg v s).agent = s.agent := rfl
@[simp] theorem setArg_turns (v : Word64) (s : State) : (setArg v s).turns = s.turns := rfl

@[simp] theorem issue_cfg (w : Word32) (s : State) : (issue w s).cfg = s.cfg := rfl
@[simp] theorem issue_cmd (w : Word32) (s : State) : (issue w s).cmd = some w := rfl
@[simp] theorem issue_busy (w : Word32) (s : State) : (issue w s).busy = true := rfl
@[simp] theorem issue_status (w : Word32) (s : State) : (issue w s).status = s.status := rfl
@[simp] theorem issue_arg (w : Word32) (s : State) : (issue w s).arg = s.arg := rfl
@[simp] theorem issue_inBuf (w : Word32) (s : State) : (issue w s).inBuf = s.inBuf := rfl
@[simp] theorem issue_out (w : Word32) (s : State) : (issue w s).out = s.out := rfl
@[simp] theorem issue_res (w : Word32) (s : State) : (issue w s).res = s.res := rfl
@[simp] theorem issue_pos (w : Word32) (s : State) : (issue w s).pos = s.pos := rfl
@[simp] theorem issue_agent (w : Word32) (s : State) : (issue w s).agent = s.agent := rfl
@[simp] theorem issue_turns (w : Word32) (s : State) : (issue w s).turns = s.turns := rfl

@[simp] theorem resetEvent_cfg (s : State) : (resetEvent s).cfg = s.cfg := rfl
@[simp] theorem resetEvent_cmd (s : State) : (resetEvent s).cmd = none := rfl
@[simp] theorem resetEvent_busy (s : State) : (resetEvent s).busy = false := rfl
@[simp] theorem resetEvent_status (s : State) : (resetEvent s).status = .noneYet := rfl
@[simp] theorem resetEvent_arg (s : State) : (resetEvent s).arg = none := rfl
@[simp] theorem resetEvent_inBuf (s : State) : (resetEvent s).inBuf = [] := rfl
@[simp] theorem resetEvent_out (s : State) : (resetEvent s).out = none := rfl
@[simp] theorem resetEvent_res (s : State) : (resetEvent s).res = none := rfl
@[simp] theorem resetEvent_pos (s : State) : (resetEvent s).pos = none := rfl
@[simp] theorem resetEvent_agent (s : State) : (resetEvent s).agent = s.agent := rfl
@[simp] theorem resetEvent_turns (s : State) : (resetEvent s).turns = s.turns := rfl

@[simp] theorem recordRead_cfg (v : ReadVal) (s : State) : (recordRead v s).cfg = s.cfg := rfl
@[simp] theorem recordRead_cmd (v : ReadVal) (s : State) : (recordRead v s).cmd = s.cmd := rfl
@[simp] theorem recordRead_busy (v : ReadVal) (s : State) : (recordRead v s).busy = s.busy := rfl
@[simp] theorem recordRead_status (v : ReadVal) (s : State) : (recordRead v s).status = s.status := rfl
@[simp] theorem recordRead_arg (v : ReadVal) (s : State) : (recordRead v s).arg = s.arg := rfl
@[simp] theorem recordRead_inBuf (v : ReadVal) (s : State) : (recordRead v s).inBuf = s.inBuf := rfl
@[simp] theorem recordRead_out (v : ReadVal) (s : State) : (recordRead v s).out = s.out := rfl
@[simp] theorem recordRead_res (v : ReadVal) (s : State) : (recordRead v s).res = s.res := rfl
@[simp] theorem recordRead_pos (v : ReadVal) (s : State) : (recordRead v s).pos = s.pos := rfl
@[simp] theorem recordRead_agent (v : ReadVal) (s : State) : (recordRead v s).agent = { s.agent with lastRead := some v } := rfl
@[simp] theorem recordRead_turns (v : ReadVal) (s : State) : (recordRead v s).turns = s.turns := rfl

@[simp] theorem jump_cfg (k : Nat) (s : State) : (jump k s).cfg = s.cfg := rfl
@[simp] theorem jump_cmd (k : Nat) (s : State) : (jump k s).cmd = s.cmd := rfl
@[simp] theorem jump_busy (k : Nat) (s : State) : (jump k s).busy = s.busy := rfl
@[simp] theorem jump_status (k : Nat) (s : State) : (jump k s).status = s.status := rfl
@[simp] theorem jump_arg (k : Nat) (s : State) : (jump k s).arg = s.arg := rfl
@[simp] theorem jump_inBuf (k : Nat) (s : State) : (jump k s).inBuf = s.inBuf := rfl
@[simp] theorem jump_out (k : Nat) (s : State) : (jump k s).out = s.out := rfl
@[simp] theorem jump_res (k : Nat) (s : State) : (jump k s).res = s.res := rfl
@[simp] theorem jump_pos (k : Nat) (s : State) : (jump k s).pos = s.pos := rfl
@[simp] theorem jump_agent (k : Nat) (s : State) : (jump k s).agent = { s.agent with pc := k } := rfl
@[simp] theorem jump_turns (k : Nat) (s : State) : (jump k s).turns = s.turns := rfl

@[simp] theorem advance_cfg (s : State) : (advance s).cfg = s.cfg := rfl
@[simp] theorem advance_cmd (s : State) : (advance s).cmd = s.cmd := rfl
@[simp] theorem advance_busy (s : State) : (advance s).busy = s.busy := rfl
@[simp] theorem advance_status (s : State) : (advance s).status = s.status := rfl
@[simp] theorem advance_arg (s : State) : (advance s).arg = s.arg := rfl
@[simp] theorem advance_inBuf (s : State) : (advance s).inBuf = s.inBuf := rfl
@[simp] theorem advance_out (s : State) : (advance s).out = s.out := rfl
@[simp] theorem advance_res (s : State) : (advance s).res = s.res := rfl
@[simp] theorem advance_pos (s : State) : (advance s).pos = s.pos := rfl
@[simp] theorem advance_agent (s : State) : (advance s).agent = { s.agent with pc := s.agent.pc + 1 } := rfl
@[simp] theorem advance_turns (s : State) : (advance s).turns = s.turns := rfl

@[simp] theorem bindVar_cfg (x : Nat) (v : ReadVal) (s : State) : (bindVar x v s).cfg = s.cfg := rfl
@[simp] theorem bindVar_cmd (x : Nat) (v : ReadVal) (s : State) : (bindVar x v s).cmd = s.cmd := rfl
@[simp] theorem bindVar_busy (x : Nat) (v : ReadVal) (s : State) : (bindVar x v s).busy = s.busy := rfl
@[simp] theorem bindVar_status (x : Nat) (v : ReadVal) (s : State) : (bindVar x v s).status = s.status := rfl
@[simp] theorem bindVar_arg (x : Nat) (v : ReadVal) (s : State) : (bindVar x v s).arg = s.arg := rfl
@[simp] theorem bindVar_inBuf (x : Nat) (v : ReadVal) (s : State) : (bindVar x v s).inBuf = s.inBuf := rfl
@[simp] theorem bindVar_out (x : Nat) (v : ReadVal) (s : State) : (bindVar x v s).out = s.out := rfl
@[simp] theorem bindVar_res (x : Nat) (v : ReadVal) (s : State) : (bindVar x v s).res = s.res := rfl
@[simp] theorem bindVar_pos (x : Nat) (v : ReadVal) (s : State) : (bindVar x v s).pos = s.pos := rfl
@[simp] theorem bindVar_agent (x : Nat) (v : ReadVal) (s : State) : (bindVar x v s).agent = { s.agent with vars := (x, v) :: s.agent.vars } := rfl
@[simp] theorem bindVar_turns (x : Nat) (v : ReadVal) (s : State) : (bindVar x v s).turns = s.turns := rfl

end Sys2Proof.Machine
end

