-- ==== Sys2Proof/Laws/Ops.lean ====
section
/-! SUPPORT. For each shared operation, everything it can answer. -/

namespace Sys2Proof.Machine

theorem lenWord_of_lt {n : Nat} (h : n < 2 ^ 64) : lenWord n = BitVec.ofNat 64 n := by
  simp only [lenWord, h, if_true]

theorem lenWord_toNat {n : Nat} (h : n < 2 ^ 64) : (lenWord n).toNat = n := by
  rw [lenWord_of_lt h, BitVec.toNat_ofNat, Nat.mod_eq_of_lt h]

@[simp] theorem withinCap_none (n : Nat) : withinCap none n = true := rfl

@[simp] theorem withinCap_some (c n : Nat) : withinCap (some c) n = decide (n ≤ c) := rfl

theorem withinCap_mono {cap : Option Nat} {m n : Nat} (hmn : m ≤ n) (h : withinCap cap n = true) :
    withinCap cap m = true := by
  cases cap with
  | none => rfl
  | some c =>
    simp only [withinCap_some, decide_eq_true_eq] at h ⊢
    omega

@[simp] theorem commitOut_ok (bs : List Byte) (s : State) : commitOut (.ok bs) s = .next (succeedOut bs s) := rfl

@[simp] theorem commitOut_error (st : Status) (s : State) : commitOut (.error st) s = .next (raise st s) := rfl

@[simp] theorem commitResPos_ok (v : Word64) (p : Nat) (s : State) :
    commitResPos (.ok (v, p)) s = .next (succeedResPos v p s) := rfl

@[simp] theorem commitResPos_error (st : Status) (s : State) :
    commitResPos (.error st) s = .next (raise st s) := rfl

/-- An operation with a byte-sequence output always has a next state: a success or a raise. -/
theorem commitOut_cases (r : Except Status (List Byte)) (s : State) :
    (∃ bs, r = .ok bs ∧ commitOut r s = .next (succeedOut bs s)) ∨
      (∃ st, r = .error st ∧ commitOut r s = .next (raise st s)) := by
  cases r with
  | ok bs => exact .inl ⟨bs, rfl, rfl⟩
  | error st => exact .inr ⟨st, rfl, rfl⟩

/-- An operation with a value and an offset always has a next state: a success or a raise. -/
theorem commitResPos_cases (r : Except Status (Word64 × Nat)) (s : State) :
    (∃ v p, r = .ok (v, p) ∧ commitResPos r s = .next (succeedResPos v p s)) ∨
      (∃ st, r = .error st ∧ commitResPos r s = .next (raise st s)) := by
  cases r with
  | ok vp => exact .inl ⟨vp.1, vp.2, rfl, rfl⟩
  | error st => exact .inr ⟨st, rfl, rfl⟩

theorem withArg_some {s : State} {v : Word64} (h : s.arg = some v)
    (k : Word64 → Host.Outcome State Fault Refusal) : withArg s k = k v := by
  simp only [withArg, h]

theorem withArg_none {s : State} (h : s.arg = none)
    (k : Word64 → Host.Outcome State Fault Refusal) : withArg s k = .fault .argBottom := by
  simp only [withArg, h]

theorem stripDelimiter_append_zero (bs : List Byte) : stripDelimiter (bs ++ [0#8]) = bs := by
  simp [stripDelimiter]

theorem stripDelimiter_of_last_ne {bs : List Byte} (h : bs.getLast? ≠ some 0#8) :
    stripDelimiter bs = bs := by
  simp only [stripDelimiter, h, if_false]

theorem stripDelimiter_length_le (bs : List Byte) : (stripDelimiter bs).length ≤ bs.length := by
  unfold stripDelimiter
  split
  · simp
  · exact le_refl _

end Sys2Proof.Machine
end

