-- ==== Sys2Proof/Laws/Cobs.lean ====
section
/-! SUPPORT. The equations of the COBS encoder and decoder, which later proofs cite instead of unfolding
the loops. -/

namespace Sys2Proof.Machine

theorem stuffFrom_nil (run : List Byte) : stuffFrom run [] = codeByte run :: run := rfl

theorem stuffFrom_zero (run bs : List Byte) :
    stuffFrom run (0#8 :: bs) = codeByte run :: (run ++ stuffFrom [] bs) := by
  simp [stuffFrom]

theorem stuffFrom_rollover {run : List Byte} {b : Byte} (bs : List Byte) (hb : b ≠ 0#8)
    (hl : run.length = 253) : stuffFrom run (b :: bs) = 0xFF#8 :: ((run ++ [b]) ++ stuffFrom [] bs) := by
  simp [stuffFrom, hb, hl]

theorem stuffFrom_literal {run : List Byte} {b : Byte} (bs : List Byte) (hb : b ≠ 0#8)
    (hl : run.length ≠ 253) : stuffFrom run (b :: bs) = stuffFrom (run ++ [b]) bs := by
  simp [stuffFrom, hb, hl]

/-- Non-zero input bytes join the run as long as it stays below 254. -/
theorem stuffFrom_append (run xs bs : List Byte) (hx : ∀ b ∈ xs, b ≠ 0#8)
    (hl : run.length + xs.length < 254) : stuffFrom run (xs ++ bs) = stuffFrom (run ++ xs) bs := by
  induction xs generalizing run with
  | nil => simp
  | cons x xs ih =>
    simp only [List.length_cons] at hl
    rw [List.cons_append, stuffFrom_literal _ (hx x (by simp)) (by omega),
      ih (run ++ [x]) (fun b hb => hx b (by simp [hb])) (by simp; omega)]
    simp

/-- The decoder's result does not depend on how much fuel there is beyond the input's length. -/
theorem unstuffFuel_eq {bs : List Byte} {n m : Nat} (hn : bs.length ≤ n) (hm : bs.length ≤ m) :
    unstuffFuel n bs = unstuffFuel m bs := by
  induction n generalizing bs m with
  | zero =>
    have : bs = [] := List.length_eq_zero_iff.mp (by omega)
    subst this
    cases m <;> rfl
  | succ n ih =>
    cases bs with
    | nil => cases m <;> rfl
    | cons c rest =>
      cases m with
      | zero => simp at hm
      | succ m =>
        simp only [List.length_cons] at hn hm
        simp only [unstuffFuel]
        rw [ih (bs := rest.drop (c.toNat - 1)) (m := m) (by simp; omega) (by simp; omega)]

theorem cobsUnstuff_nil : cobsUnstuff [] = .ok [] := rfl

theorem cobsUnstuff_zero (rest : List Byte) : cobsUnstuff (0#8 :: rest) = .ok [] := by
  simp [cobsUnstuff, unstuffFuel]

theorem cobsUnstuff_short {c : Byte} {rest : List Byte} (hc : c ≠ 0#8)
    (hl : c.toNat - 1 > rest.length) : cobsUnstuff (c :: rest) = .error .framingError := by
  simp [cobsUnstuff, unstuffFuel, hc, hl]

/-- One complete run: its literals, the zero of R110, and the rest of the input. -/
theorem cobsUnstuff_run {c : Byte} {lits more : List Byte} (hc : c ≠ 0#8)
    (hl : lits.length = c.toNat - 1) :
    cobsUnstuff (c :: (lits ++ more)) =
      match cobsUnstuff more with
      | .error st => .error st
      | .ok out => .ok (lits ++ (if c.toNat < 0xFF ∧ more ≠ [] then [0#8] else []) ++ out) := by
  have hm : unstuffFuel (lits.length + more.length) more = cobsUnstuff more :=
    unstuffFuel_eq (by omega) (le_refl _)
  have ht : (lits ++ more).take (c.toNat - 1) = lits := by simp [← hl]
  have hd : (lits ++ more).drop (c.toNat - 1) = more := by simp [← hl]
  have hlen : ¬ c.toNat - 1 > (lits ++ more).length := by simp; omega
  rw [cobsUnstuff, List.length_cons, List.length_append]
  simp only [unstuffFuel, if_neg hc, if_neg hlen, ht, hd, hm]
  all_goals (cases cobsUnstuff more <;> rfl)

/-- The decoder's only error is FRAMING_ERROR (R108). -/
theorem unstuffFuel_error {n : Nat} {bs : List Byte} {st : Status}
    (h : unstuffFuel n bs = .error st) : st = .framingError := by
  induction n generalizing bs with
  | zero => simp [unstuffFuel] at h
  | succ n ih =>
    cases bs with
    | nil => simp [unstuffFuel] at h
    | cons c rest =>
      simp only [unstuffFuel] at h
      split at h
      · cases h
      · split at h
        · cases h; rfl
        · split at h
          · rename_i st' he
            cases h
            exact ih he
          · cases h

theorem cobsUnstuff_error {bs : List Byte} {st : Status} (h : cobsUnstuff bs = .error st) :
    st = .framingError := unstuffFuel_error h

end Sys2Proof.Machine
end

