-- ==== Sys2Proof/Laws/Varint.lean ====
section
/-! SUPPORT. The rounds of the varint loops, which later proofs cite instead of unfolding them. -/

namespace Sys2Proof.Machine

theorem continues_iff (b : Byte) : continues b = true ↔ 0x80 ≤ b.toNat := by
  revert b; decide

theorem groupOf_toNat (b : Byte) : (groupOf b).toNat = b.toNat % 128 := by
  revert b; decide

theorem inRead_append_right (pre suf : List Byte) (k : Nat) :
    inRead (pre ++ suf) (pre.length + k) = inRead suf k := by
  simp [inRead, List.getElem?_append_right]

/-- The last group of an encoding. -/
theorem encodeFuel_last (n : Nat) {v : Word64} (h : v >>> 7 = 0#64) :
    encodeFuel (n + 1) v = [(v &&& 0x7F#64).setWidth 8] := by
  simp [encodeFuel, h]

/-- A group that is not the last carries the continuation bit. -/
theorem encodeFuel_more (n : Nat) {v : Word64} (h : v >>> 7 ≠ 0#64) :
    encodeFuel (n + 1) v = ((v &&& 0x7F#64).setWidth 8 ||| 0x80#8) :: encodeFuel n (v >>> 7) := by
  simp [encodeFuel, h]

/-- At most ten bytes for ten rounds (R152). -/
theorem encodeFuel_length_le (n : Nat) (v : Word64) : (encodeFuel n v).length ≤ n := by
  induction n generalizing v with
  | zero => simp [encodeFuel]
  | succ n ih =>
    by_cases h : v >>> 7 = 0#64
    · simp [encodeFuel_last n h]
    · simp only [encodeFuel_more n h, List.length_cons]
      have := ih (v >>> 7)
      omega

/-- A round with no byte left (R154). -/
theorem decodeFuel_none {pol : G10Policy} {buf : List Byte} {n p shift : Nat} {acc : Word64}
    (h : inRead buf p = none) : decodeFuel pol buf (n + 1) p shift acc = .error .varintTruncated := by
  simp only [decodeFuel, h]

/-- A round with a continuation byte below shift 63. -/
theorem decodeFuel_more {pol : G10Policy} {buf : List Byte} {n p shift : Nat} {acc : Word64} {b : Byte}
    (h : inRead buf p = some b) (hb : continues b = true) (hs : shift + 7 ≤ 63) :
    decodeFuel pol buf (n + 1) p shift acc =
      decodeFuel pol buf n (p + 1) (shift + 7) (acc ||| ((groupOf b).setWidth 64 <<< shift)) := by
  have : ¬ shift + 7 > 63 := by omega
  simp only [decodeFuel, h, hb, if_true, if_neg this]

/-- A round with a continuation byte at shift 63 (R155). -/
theorem decodeFuel_overflow {pol : G10Policy} {buf : List Byte} {n p shift : Nat} {acc : Word64} {b : Byte}
    (h : inRead buf p = some b) (hb : continues b = true) (hs : shift + 7 > 63) :
    decodeFuel pol buf (n + 1) p shift acc = .error .varintOverflow := by
  simp only [decodeFuel, h, hb, if_true, if_pos hs]

/-- A round with the terminating byte (R153, R156). -/
theorem decodeFuel_last {pol : G10Policy} {buf : List Byte} {n p shift : Nat} {acc : Word64} {b : Byte}
    (h : inRead buf p = some b) (hb : continues b = false) :
    decodeFuel pol buf (n + 1) p shift acc =
      if shift = 63 ∧ groupOf b > 1#8 ∧ pol = .reject then .error .varintOverflow
      else .ok (acc ||| ((groupOf b).setWidth 64 <<< shift), p + 1) := by
  simp [decodeFuel, h, hb]

/-- The decoder's only errors (R154, R155). -/
theorem decodeFuel_error {pol : G10Policy} {buf : List Byte} {n p shift : Nat} {acc : Word64} {st : Status}
    (h : decodeFuel pol buf n p shift acc = .error st) : st = .varintTruncated ∨ st = .varintOverflow := by
  induction n generalizing p shift acc with
  | zero => cases h; exact .inr rfl
  | succ n ih =>
    simp only [decodeFuel] at h
    split at h
    · cases h; exact .inl rfl
    · split at h
      · split at h
        · cases h; exact .inr rfl
        · exact ih h
      · split at h
        · cases h; exact .inr rfl
        · cases h

end Sys2Proof.Machine
end

