-- ==== Sys2Proof/Laws/Exec.lean ====
section
/-! SUPPORT. What a perform step can answer, command by command and as a whole. -/

namespace Sys2Proof.Machine

/-- The four shapes of a completed command (R75, R81, R205). -/
inductive Completed (s : State) : State → Prop where
  | out (bs : List Byte) : Completed s (succeedOut bs s)
  | res (v : Word64) : Completed s (succeedRes v s)
  | resPos (v : Word64) (p : Nat) : Completed s (succeedResPos v p s)
  | error (st : Status) (hst : st = .framingError ∨ st = .varintTruncated ∨ st = .varintOverflow) :
      Completed s (raise st s)

theorem completed_commitOut {r : Except Status (List Byte)} {s t : State}
    (he : ∀ st, r = .error st → st = .framingError) (h : commitOut r s = .next t) : Completed s t := by
  obtain ⟨bs, -, hr⟩ | ⟨st, hst, hr⟩ := commitOut_cases r s
  · rw [hr] at h; cases h; exact .out bs
  · rw [hr] at h; cases h
    exact .error _ (.inl (he st hst))

theorem completed_commitResPos {r : Except Status (Word64 × Nat)} {s t : State}
    (he : ∀ st, r = .error st → st = .varintTruncated ∨ st = .varintOverflow)
    (h : commitResPos r s = .next t) : Completed s t := by
  obtain ⟨v, p, -, hr⟩ | ⟨st, hst, hr⟩ := commitResPos_cases r s
  · rw [hr] at h; cases h; exact .resPos v p
  · rw [hr] at h; cases h
    exact .error _ (.inr (he st hst))

/-- A command that answers a next state completes in one of the four shapes. -/
theorem exec_next {i : Instr} {s t : State} (h : exec i s = .next t) : Completed s t := by
  cases i with
  | crc32 => cases h; exact .res _
  | cobsStuff => cases h; exact .out _
  | cobsStuffD => cases h; exact .out _
  | cobsUnstuff => exact completed_commitOut (fun _ => cobsUnstuff_error) h
  | cobsUnstuffD => exact completed_commitOut (fun _ => cobsUnstuff_error) h
  | varintEnc =>
    cases ha : s.arg with
    | none => simp [exec, execVarintEnc, withArg_none ha] at h
    | some v => simp only [exec, execVarintEnc, withArg_some ha] at h; cases h; exact .out _
  | varintDec =>
    cases ha : s.arg with
    | none => simp [exec, execVarintDec, withArg_none ha] at h
    | some v =>
      simp only [exec, execVarintDec, withArg_some ha] at h
      exact completed_commitResPos (fun _ => decodeFuel_error) h

/-- A perform step that answers a next state completes a command, or raises ILLEGAL_COMMAND. -/
theorem perform_next {s t : State} (h : perform s = .next t) :
    Completed s t ∨ t = raise .illegalCommand s := by
  unfold perform at h
  split at h
  · cases h
  · unfold performWord at h
    split at h
    · exact .inl (exec_next h)
    · cases h; exact .inr rfl

/-- A command stops only for want of ARG (MF4). -/
theorem exec_total (i : Instr) (s : State) :
    (∃ t, exec i s = .next t) ∨
      (exec i s = .fault .argBottom ∧ s.arg = none ∧ (i = .varintEnc ∨ i = .varintDec)) := by
  cases i with
  | crc32 => exact .inl ⟨_, rfl⟩
  | cobsStuff => exact .inl ⟨_, rfl⟩
  | cobsStuffD => exact .inl ⟨_, rfl⟩
  | cobsUnstuff =>
    obtain ⟨bs, -, hr⟩ | ⟨st, -, hr⟩ := commitOut_cases (cobsUnstuff s.inBuf) s <;> exact .inl ⟨_, hr⟩
  | cobsUnstuffD =>
    obtain ⟨bs, -, hr⟩ | ⟨st, -, hr⟩ := commitOut_cases (cobsUnstuff (stripDelimiter s.inBuf)) s <;>
      exact .inl ⟨_, hr⟩
  | varintEnc =>
    cases ha : s.arg with
    | none => exact .inr ⟨withArg_none ha _, rfl, .inl rfl⟩
    | some v => exact .inl ⟨_, withArg_some ha _⟩
  | varintDec =>
    cases ha : s.arg with
    | none => exact .inr ⟨withArg_none ha _, rfl, .inr rfl⟩
    | some v =>
      obtain ⟨w, q, -, hr⟩ | ⟨st, -, hr⟩ :=
        commitResPos_cases (varintDecode s.cfg.g10 s.inBuf v.toNat) s <;>
        exact .inl ⟨_, (withArg_some ha _).trans hr⟩

end Sys2Proof.Machine
end

