-- ==== Sys2Proof/Laws/PerInstr.lean ====
section
/-! SUPPORT. One lemma per command for the family RoundTrip: the command word of a command has legal fields
(30_encoding.md R70 to R73) and decodes to that command (R74, R77). -/

namespace Sys2Proof.Laws.RoundTrip

/-- The word of `i` is well-formed and decodes to `i`. -/
def Statement (i : Instr) : Prop := (Format.ofWord (encode i)).wf = true ∧ decode (encode i) = .ok i

theorem crc32 : Statement .crc32 := ⟨by decide, by decide⟩
theorem cobsStuff : Statement .cobsStuff := ⟨by decide, by decide⟩
theorem cobsStuffD : Statement .cobsStuffD := ⟨by decide, by decide⟩
theorem cobsUnstuff : Statement .cobsUnstuff := ⟨by decide, by decide⟩
theorem cobsUnstuffD : Statement .cobsUnstuffD := ⟨by decide, by decide⟩
theorem varintEnc : Statement .varintEnc := ⟨by decide, by decide⟩
theorem varintDec : Statement .varintDec := ⟨by decide, by decide⟩

end Sys2Proof.Laws.RoundTrip
end

