-- ==== Sys2Proof/Laws/Step.lean ====
section
/-! SUPPORT. What one step can do: the inversion lemmas that every invariant proof starts from. -/

namespace Sys2Proof.Machine

/-- What a host action that answers a next state did (R36). -/
theorem hostAct_next {a : HostAction} {s t : State} (h : hostAct a s = .next t) :
    (∃ bs, a = .writeIn bs ∧ s.busy = false ∧ withinCap s.cfg.inCap bs.length = true ∧ t = setIn bs s) ∨
    (∃ v, a = .writeArg v ∧ s.busy = false ∧ t = setArg v s) ∨
    (∃ w, a = .writeCmd w ∧ s.busy = false ∧ t = issue w s) ∨
    (∃ q v, a = .read q ∧ readReq s q = .ok v ∧ t = recordRead v s) := by
  cases a with
  | writeIn bs =>
    simp only [hostAct, hostWriteIn] at h
    split at h
    · cases h
    · split at h
      · cases h; exact .inl ⟨bs, rfl, by simpa using ‹¬ s.busy = true›, ‹_›, rfl⟩
      · cases h
  | writeArg v =>
    simp only [hostAct, hostWriteArg] at h
    split at h
    · cases h
    · cases h; exact .inr (.inl ⟨v, rfl, by simpa using ‹¬ s.busy = true›, rfl⟩)
  | writeCmd w =>
    simp only [hostAct, hostWriteCmd] at h
    split at h
    · cases h
    · cases h; exact .inr (.inr (.inl ⟨w, rfl, by simpa using ‹¬ s.busy = true›, rfl⟩))
  | read q =>
    simp only [hostAct, hostRead] at h
    split at h
    · cases h; exact .inr (.inr (.inr ⟨q, _, rfl, ‹_›, rfl⟩))
    · cases h

theorem thenAdvance_next {o : Host.Outcome State Fault Refusal} {t : State} (h : thenAdvance o = .next t) :
    ∃ u, o = .next u ∧ t = advance u := by
  cases o with
  | next u => cases h; exact ⟨u, rfl, rfl⟩
  | fault f => cases h
  | refused r => cases h

/-- What a host statement that answers a next state did to the block's registers (R78): one write of IN,
ARG or CMD while BUSY = 0, or nothing. Its effect on the host agent is in `a`. -/
theorem execStmt_next {st : Stmt} {s t : State} (h : execStmt st s = .next t) :
    (∃ e bs, st = .inSeq e ∧ evalSeq s e = .ok bs ∧ s.busy = false ∧
      withinCap s.cfg.inCap bs.length = true ∧ t = advance (setIn bs s)) ∨
    (∃ e v, st = .arg e ∧ evalVal s e = .ok v ∧ s.busy = false ∧ t = advance (setArg v s)) ∨
    (∃ w, (st = .cmdWord w ∨ ∃ i, st = .cmd i ∧ w = encode i) ∧ s.busy = false ∧
      t = advance (issue w s)) ∨
    (∃ a, t = { s with agent := a }) := by
  have busy_false (hb : ¬ s.busy = true) : s.busy = false := by simpa using hb
  have cmd_next {w : Word32} (hw : thenAdvance (hostWriteCmd w s) = .next t) :
      s.busy = false ∧ t = advance (issue w s) := by
    obtain ⟨u, hu, rfl⟩ := thenAdvance_next hw
    simp only [hostWriteCmd] at hu
    split at hu
    · cases hu
    · cases hu; exact ⟨busy_false ‹_›, rfl⟩
  have branch_next {l : Nat} (hl : branchTo l s = .next t) : ∃ a, t = { s with agent := a } := by
    simp only [branchTo] at hl
    split at hl
    · cases hl; exact ⟨_, rfl⟩
    · cases hl
  cases st with
  | inSeq e =>
    simp only [execStmt, stmtIn] at h
    split at h
    · rename_i bs he
      obtain ⟨u, hu, rfl⟩ := thenAdvance_next h
      simp only [hostWriteIn] at hu
      split at hu
      · cases hu
      · split at hu
        · cases hu; exact .inl ⟨e, bs, rfl, he, busy_false ‹_›, ‹_›, rfl⟩
        · cases hu
    · cases h
  | arg e =>
    simp only [execStmt, stmtArg] at h
    split at h
    · rename_i v he
      obtain ⟨u, hu, rfl⟩ := thenAdvance_next h
      simp only [hostWriteArg] at hu
      split at hu
      · cases hu
      · cases hu; exact .inr (.inl ⟨e, v, rfl, he, busy_false ‹_›, rfl⟩)
    · cases h
  | cmd i =>
    obtain ⟨hb, rfl⟩ := cmd_next h
    exact .inr (.inr (.inl ⟨encode i, .inr ⟨i, rfl, rfl⟩, hb, rfl⟩))
  | cmdWord w =>
    obtain ⟨hb, rfl⟩ := cmd_next h
    exact .inr (.inr (.inl ⟨w, .inl rfl, hb, rfl⟩))
  | wait =>
    simp only [execStmt, stmtWait] at h
    split at h <;> cases h
    · exact .inr (.inr (.inr ⟨s.agent, rfl⟩))
    · exact .inr (.inr (.inr ⟨_, rfl⟩))
  | save x r =>
    simp only [execStmt, stmtSave] at h
    split at h <;> cases h
    exact .inr (.inr (.inr ⟨_, rfl⟩))
  | bneStatus code l =>
    simp only [execStmt, stmtBneStatus] at h
    split at h
    · cases h
    · split at h
      · cases h; exact .inr (.inr (.inr ⟨_, rfl⟩))
      · exact .inr (.inr (.inr (branch_next h)))
  | b l => exact .inr (.inr (.inr (branch_next h)))
  | label l => cases h; exact .inr (.inr (.inr ⟨_, rfl⟩))
  | halt => cases h; exact .inr (.inr (.inr ⟨s.agent, rfl⟩))

/-- What the block's turn did, if it answers a next state (R81, R216). -/
theorem blockTurn_next {s t : State} (h : blockTurn s = .next t) :
    (s.busy = true ∧ perform s = .next t) ∨ (s.busy = false ∧ t = s) := by
  unfold blockTurn at h
  split at h
  · exact .inl ⟨‹_›, h⟩
  · cases h; exact .inr ⟨by simpa using ‹¬ s.busy = true›, rfl⟩

/-- Whose step a step was. `u` is the state with the used schedule entry taken away. -/
theorem step_next {s t : State} (h : step s = .next t) :
    ∃ u, (s.turns = [] ∧ u = s ∧ blockTurn u = .next t) ∨
      ∃ ts, u = { s with turns := ts } ∧
        ((s.turns = .block :: ts ∧ blockTurn u = .next t) ∨
         (∃ a, s.turns = .host a :: ts ∧ hostAct a u = .next t) ∨
         (s.turns = .program :: ts ∧ programTurn u = .next t) ∨
         (s.turns = .reset :: ts ∧ t = resetEvent u)) := by
  unfold step takeTurn at h
  split at h
  · exact ⟨s, .inl ⟨‹_›, rfl, h⟩⟩
  · rename_i tn ts hts
    refine ⟨{ s with turns := ts }, .inr ⟨ts, rfl, ?_⟩⟩
    cases tn with
    | block => exact .inl ⟨hts, h⟩
    | host a => exact .inr (.inl ⟨a, hts, h⟩)
    | program => exact .inr (.inr (.inl ⟨hts, h⟩))
    | reset => cases h; exact .inr (.inr (.inr ⟨hts, rfl⟩))

end Sys2Proof.Machine
end

