-- ==== Sys2Proof/Tests/Slice0.lean ====
section
/-! SUPPORT. Tests with expected results from spec/95_test_vectors.md and the rules, smoke tests of
WellFormed, and a witness for the hypotheses of every statement that has some. -/

namespace Sys2Proof.Tests
open Sys2Proof.Machine

/-! ### Helpers -/

/-- The reset state with IN and ARG written. -/
def given (bs : List Byte) (a : Option Word64) : State := { State.reset with inBuf := bs, arg := a }

/-- The same under the TRUNCATE policy. -/
def givenTruncate (bs : List Byte) (a : Option Word64) : State :=
  { given bs a with cfg := { Config.default with g10 := .truncate } }

/-- A state with a command word pending and nothing scheduled. -/
def issued (w : Word32) (s : State) : State := { s with cmd := some w, busy := true }

/-- An idle state in which the host is at the start of a program and has the next turns. -/
def running (p : List Stmt) (ts : List Turn) (s : State) : State :=
  { s with agent := { HostAgent.init with prog := p }, turns := ts }

/-- The next state, if there is one. -/
def nextOf (o : Host.Outcome State Fault Refusal) : Option State :=
  match o with
  | .next s => some s
  | .fault _ => none
  | .refused _ => none

/-- The fault, if there is one. -/
def faultOf (o : Host.Outcome State Fault Refusal) : Option Fault :=
  match o with
  | .next _ => none
  | .fault f => some f
  | .refused _ => none

/-- STATUS, OUT, RES and POS after a step. -/
def results (o : Host.Outcome State Fault Refusal) :
    Option (Status × Option (List Byte) × Option Word64 × Option Word64) :=
  (nextOf o).map fun s => (s.status, s.out, s.res, s.pos)

/-! ### Decoding: words written bit by bit from 30_encoding.md R70 to R73 (RSV_HI, D, RSV_LO, OP) -/

theorem test_decode_crc32 : decode 0b00000000000000000000000_0_0000_0001#32 = .ok .crc32 := by decide
theorem test_decode_cobs_stuff : decode 0b00000000000000000000000_0_0000_0010#32 = .ok .cobsStuff := by decide
theorem test_decode_cobs_stuff_d : decode 0b00000000000000000000000_1_0000_0010#32 = .ok .cobsStuffD := by decide
theorem test_decode_cobs_unstuff : decode 0b00000000000000000000000_0_0000_0011#32 = .ok .cobsUnstuff := by decide
theorem test_decode_cobs_unstuff_d : decode 0b00000000000000000000000_1_0000_0011#32 = .ok .cobsUnstuffD := by decide
theorem test_decode_varint_enc : decode 0b00000000000000000000000_0_0000_0100#32 = .ok .varintEnc := by decide
theorem test_decode_varint_dec : decode 0b00000000000000000000000_0_0000_0101#32 = .ok .varintDec := by decide

/-- 95_test_vectors.md CD8 to CD15. -/
theorem test_decode_illegal :
    decode 0x00000000#32 = .error .reservedOp ∧ decode 0x00000006#32 = .error .reservedOp ∧
    decode 0x0000000F#32 = .error .reservedOp ∧ decode 0x00000101#32 = .error .delimiterBit ∧
    decode 0x00000104#32 = .error .delimiterBit ∧ decode 0x00000105#32 = .error .delimiterBit ∧
    decode 0x00000012#32 = .error .reservedBits ∧ decode 0x00000202#32 = .error .reservedBits ∧
    decode 0x80000001#32 = .error .reservedBits ∧ decode 0xFFFFFFFF#32 = .error .reservedBits := by decide

theorem test_decodeTableWord :
    decodeTableWord 32 0x102 = some .cobsStuffD ∧ decodeTableWord 32 0 = none ∧
    decodeTableWord 40 0x100000001 = none := by decide

/-! ### WellFormed: an ill-formed term for each check -/

theorem test_wf_rejects_rsvHi : (Format.mk 1 0 0 1).wf = false := by decide
theorem test_wf_rejects_rsvLo : (Format.mk 0 0 8 2).wf = false := by decide
theorem test_wf_rejects_op : (Format.mk 0 0 0 6).wf = false := by decide
theorem test_wf_rejects_d : (Format.mk 0 1 0 4).wf = false := by decide
theorem test_wf_accepts : (Format.mk 0 1 0 3).wf = true := by decide
theorem test_wf_rejects_small_outCap :
    (Config.mk (some 254) (some 256) .reject []).wf = false ∧
    (Config.mk (some 254) (some 257) .reject []).wf = true := by decide
theorem test_wf_rejects_bounded_outCap : (Config.mk none (some 1000) .reject []).wf = false := by decide
theorem test_wf_rejects_unicode : (SeqExpr.ascii ['é']).wf = false := by decide
theorem test_wf_rejects_missing_label : progWf [.b 3, .halt] = false := by decide
theorem test_wf_rejects_double_label : progWf [.label 3, .label 3, .halt] = false := by decide
theorem test_wf_accepts_program : progWf [.label 3, .wait, .bneStatus 0 3, .halt] = true := by decide

/-! ### Commands: vectors of 95_test_vectors.md -/

/-- CR1. -/
theorem test_crc32_check_value :
    results (exec .crc32 (given [0x31, 0x32, 0x33, 0x34, 0x35, 0x36, 0x37, 0x38, 0x39] none)) =
      some (.ok, none, some 0xCBF43926, none) := by decide +kernel
/-- CR8: the final XOR with the high bits set. -/
theorem test_crc32_ones :
    results (exec .crc32 (given [0xFF, 0xFF, 0xFF, 0xFF] none)) = some (.ok, none, some 0xFFFFFFFF, none) := by
  decide +kernel
/-- CS9. -/
theorem test_cobs_stuff :
    results (exec .cobsStuff (given [0x11, 0x22, 0x00, 0x33] none)) =
      some (.ok, some [0x03, 0x11, 0x22, 0x02, 0x33], none, none) := by decide
/-- CS14: the eager rollover. -/
theorem test_cobs_stuff_rollover :
    results (exec .cobsStuff (given (List.replicate 254 0x07) none)) =
      some (.ok, some (0xFF :: List.replicate 254 0x07 ++ [0x01]), none, none) := by decide +kernel
/-- CS5. -/
theorem test_cobs_stuff_d :
    results (exec .cobsStuffD (given [0x00, 0x00] none)) =
      some (.ok, some [0x01, 0x01, 0x01, 0x00], none, none) := by decide
/-- CU8 and CU12: a zero appended after a run, a zero in literal position copied. -/
theorem test_cobs_unstuff_zeros :
    results (exec .cobsUnstuff (given [0x02, 0x41, 0x00] none)) = some (.ok, some [0x41, 0x00], none, none) ∧
    results (exec .cobsUnstuff (given [0x03, 0x00, 0x05] none)) = some (.ok, some [0x00, 0x05], none, none) :=
  ⟨by decide, by decide⟩
/-- CU15. -/
theorem test_cobs_unstuff_framing_error :
    results (exec .cobsUnstuff (given [0x05, 0x11, 0x22] none)) = some (.framingError, none, none, none) := by
  decide
/-- CU6. -/
theorem test_cobs_unstuff_d :
    results (exec .cobsUnstuffD (given [0x03, 0x11, 0x22, 0x02, 0x33, 0x00] none)) =
      some (.ok, some [0x11, 0x22, 0x00, 0x33], none, none) := by decide
/-- CU20 and CU23: one byte stripped; the strip comes first. -/
theorem test_cobs_unstuff_d_strip :
    results (exec .cobsUnstuffD (given [0x00, 0x00] none)) = some (.ok, some [], none, none) ∧
    results (exec .cobsUnstuffD (given [0x03, 0x41, 0x00] none)) = some (.framingError, none, none, none) :=
  ⟨by decide, by decide⟩
/-- VE7. -/
theorem test_varint_enc :
    results (exec .varintEnc (given [] (some 0xCBF43926))) =
      some (.ok, some [0xA6, 0xF2, 0xD0, 0xDF, 0x0C], none, none) := by decide
/-- VE12. -/
theorem test_varint_enc_max :
    results (exec .varintEnc (given [] (some 0xFFFFFFFFFFFFFFFF))) =
      some (.ok, some (List.replicate 9 0xFF ++ [0x01]), none, none) := by decide
/-- VD2. -/
theorem test_varint_dec :
    results (exec .varintDec (given [0x00, 0xAC, 0x02, 0x07] (some 1))) =
      some (.ok, none, some 300, some 3) := by decide
/-- VD10, VD11 and VD14: the tenth group under both policies; nine continuation bytes and the end. -/
theorem test_varint_dec_tenth :
    results (exec .varintDec (given (List.replicate 9 0xFF ++ [0x7F]) (some 0))) =
      some (.varintOverflow, none, none, none) ∧
    results (exec .varintDec (givenTruncate (List.replicate 9 0xFF ++ [0x7F]) (some 0))) =
      some (.ok, none, some 0xFFFFFFFFFFFFFFFF, some 10) ∧
    results (exec .varintDec (given (List.replicate 9 0x80) (some 0))) =
      some (.varintTruncated, none, none, none) := ⟨by decide, by decide, by decide⟩

/-! ### The command cycle and the host -/

/-- IF5, IF6 and CD8, from reset: the placed word is performed by the next step. -/
theorem test_step_from_reset :
    results (step (State.reset.withFetchWord 32 1)) = some (.ok, none, some 0, none) ∧
    faultOf (step (State.reset.withFetchWord 32 4)) = some .argBottom ∧
    results (step (State.reset.withFetchWord 32 0)) = some (.illegalCommand, none, none, none) :=
  ⟨by decide, by decide, by decide⟩
/-- IF3, IF4, IF7, IF11 and IF12. -/
theorem test_host_faults :
    faultOf (hostAct (.read (.reg .res)) State.reset) = some (.bottomRead .res) ∧
    faultOf (hostAct (.read (.reg .cmd)) State.reset) = some .cmdRead ∧
    faultOf (hostAct (.read (.reg .status)) (issued 1 State.reset)) = some .busyAccess ∧
    faultOf (hostAct (.read (.outByte 1)) { State.reset with out := some [0x00] }) = some (.outIndex 1) ∧
    faultOf (hostAct (.writeIn [0x01, 0x02])
      { State.reset with cfg := { Config.default with inCap := some 1 } }) = some .inCapExceeded := by decide
/-- IF1 and IF2. -/
theorem test_host_reads :
    (nextOf (hostAct (.read (.reg .status)) State.reset)).map (fun s => s.agent.lastRead) =
      some (some (.byte 0xFF)) ∧
    (nextOf (hostAct (.read (.reg .busy)) State.reset)).map (fun s => s.agent.lastRead) =
      some (some (.bit false)) := by decide

/-! ### Witnesses: concrete states that meet the hypotheses of the statements -/

/-- With nothing scheduled the block moves. -/
theorem blockMoves_of_nil {s : State} (h : s.turns = []) : Ref.blockMoves s := by
  intro t ht
  rw [h] at ht
  cases ht

theorem witness_DecodeFollowsTheFieldRules :
    (0x80000001#32).toNat / 512 ≠ 0 ∧ (0x00000200#32).toNat / 512 ≠ 0 ∧ (0x00000010#32).toNat / 16 % 16 ≠ 0 ∧
    (0x000000F5#32).toNat / 16 % 16 ≠ 0 ∧
    ((0x00000001#32).toNat / 512 = 0 ∧ (0x00000001#32).toNat / 16 % 16 = 0 ∧
      (0x00000001#32).toNat % 16 = 1 ∧ (0x00000001#32).toNat / 256 % 2 = 0) ∧
    ((0x00000002#32).toNat % 16 = 2 ∧ (0x00000002#32).toNat / 256 % 2 = 0) ∧
    ((0x00000102#32).toNat / 512 = 0 ∧ (0x00000102#32).toNat / 16 % 16 = 0 ∧
      (0x00000102#32).toNat % 16 = 2 ∧ (0x00000102#32).toNat / 256 % 2 = 1) ∧
    ((0x00000003#32).toNat % 16 = 3 ∧ (0x00000003#32).toNat / 256 % 2 = 0) ∧
    ((0x00000103#32).toNat % 16 = 3 ∧ (0x00000103#32).toNat / 256 % 2 = 1) ∧
    ((0x00000004#32).toNat % 16 = 4 ∧ (0x00000004#32).toNat / 256 % 2 = 0) ∧
    ((0x00000005#32).toNat % 16 = 5 ∧ (0x00000005#32).toNat / 256 % 2 = 0) ∧
    ((0x00000101#32).toNat % 16 = 1 ∧ (0x00000101#32).toNat / 256 % 2 = 1) ∧
    ((0x00000000#32).toNat / 512 = 0 ∧ (0x00000000#32).toNat % 16 = 0) ∧
    ((0x00000006#32).toNat / 512 = 0 ∧ 6 ≤ (0x00000006#32).toNat % 16) := by decide

theorem witness_StepRunsThePendingCommand : ∃ (s : State) (w : Word32) (i : Instr),
    s.busy = true ∧ Ref.blockMoves s ∧ s.cmd = some w ∧ decode w = .ok i :=
  ⟨issued 0x103 State.reset, 0x103, .cobsUnstuffD, rfl, blockMoves_of_nil rfl, rfl, by decide⟩

theorem witness_IllegalWordCompletesWithIllegalCommand : ∃ (s : State) (w : Word32),
    s.cmd = some w ∧ ∀ i, w ≠ encode i :=
  ⟨issued 0x101 State.reset, 0x101, rfl, by intro i; cases i <;> decide⟩

theorem witness_ReservedBitsAreIllegal : ∃ (s : State) (w : Word32) (k : Nat),
    s.cmd = some w ∧ w.getLsbD k = true ∧ (4 ≤ k ∧ k ≤ 7 ∨ 9 ≤ k ∧ k ≤ 31) :=
  ⟨issued 0x80000001 State.reset, 0x80000001, 31, rfl, by decide, by decide⟩

theorem witness_ReservedBitsAreIllegal_low : ∃ (s : State) (w : Word32) (k : Nat),
    s.cmd = some w ∧ w.getLsbD k = true ∧ (4 ≤ k ∧ k ≤ 7 ∨ 9 ≤ k ∧ k ≤ 31) :=
  ⟨issued 0x12 State.reset, 0x12, 4, rfl, by decide, by decide⟩

theorem witness_WriteCmdIssues : (∃ s : State, s.busy = false) ∧ (∃ s : State, s.busy = true) ∧
    (∃ q : ReadReq, q ≠ .reg .busy) :=
  ⟨⟨State.reset, rfl⟩, ⟨issued 1 State.reset, rfl⟩, ⟨.outByte 0, by decide⟩⟩

theorem witness_ChecksumCheckValues :
    (∃ s : State, s.inBuf = [0x31, 0x32, 0x33, 0x34, 0x35, 0x36, 0x37, 0x38, 0x39]) ∧
    ∃ s : State, s.inBuf = [] :=
  ⟨⟨given [0x31, 0x32, 0x33, 0x34, 0x35, 0x36, 0x37, 0x38, 0x39] none, rfl⟩, ⟨State.reset, rfl⟩⟩

theorem witness_ChecksumOfOneByte : ∃ (s : State) (b : Byte), s.inBuf = [b] := ⟨given [0xFF] none, 0xFF, rfl⟩

/-- CU17: a code byte that claims exactly what remains. -/
theorem witness_UnstuffFollowsTheBlocks : ∃ (s : State) (bs : List Byte), Ref.Unstuffs s.inBuf bs :=
  ⟨given [0x02, 0x41] none, [0x41], .last 0x02 [0x41] (by decide) (by decide)⟩

/-- CU8: literals, then a zero in code-byte position. -/
theorem witness_UnstuffFollowsTheBlocks_more : Ref.Unstuffs [0x02, 0x41, 0x00] [0x41, 0x00] :=
  .more 0x02 [0x41] [0x00] [] (by decide) (by decide) (by decide) (by decide) (.stop [])

/-- A code byte 255 with a zero after its literals. -/
theorem witness_UnstuffFollowsTheBlocks_full :
    Ref.Unstuffs (0xFF#8 :: (List.replicate 254 0x07#8 ++ [0x00#8])) (List.replicate 254 0x07#8 ++ []) :=
  .full (List.replicate 254 0x07) [0x00] [] List.length_replicate (by decide) (.stop [])

/-- CU14: no sequence is the decoding of a lone FF. -/
theorem unstuffs_lone_FF (bs : List Byte) : ¬ Ref.Unstuffs [0xFF#8] bs := by
  intro h
  generalize hi : [0xFF#8] = input at h
  cases h with
  | empty => cases hi
  | stop rest => cases hi
  | last c lits hc hl =>
    obtain ⟨rfl, rfl⟩ := List.cons.inj hi
    exact absurd hl (by decide)
  | more c lits rest out hc hm hl hr h => exact hm (List.cons.inj hi).1.symm
  | full lits rest out hl hr h =>
    have := (List.cons.inj hi).2
    cases lits with
    | nil => cases hl
    | cons x xs => cases this

theorem witness_UnstuffFollowsTheBlocks_error : ∃ s : State, ∀ bs, ¬ Ref.Unstuffs s.inBuf bs :=
  ⟨given [0xFF] none, unstuffs_lone_FF⟩

theorem witness_UnstuffStripsOneDelimiter :
    (∃ (s : State) (body bs : List Byte), s.inBuf = body ++ [0#8] ∧ Ref.Unstuffs body bs) ∧
    (∃ (s : State) (body : List Byte), s.inBuf = body ++ [0#8] ∧ ∀ bs, ¬ Ref.Unstuffs body bs) ∧
    (∃ s : State, ∀ body, s.inBuf ≠ body ++ [0#8]) :=
  ⟨⟨given [0x00] none, [], [], rfl, .empty⟩, ⟨given [0xFF, 0x00] none, [0xFF], rfl, unstuffs_lone_FF⟩,
    ⟨State.reset, fun body h => by simp [State.reset, State.resetWith] at h⟩⟩

theorem witness_FramingErrorExactlyOnAShortRun : ∃ (s : State) (good : List Byte) (c : Byte) (rest : List Byte),
    s.inBuf = good ++ c :: rest ∧ Ref.Blocks good ∧ c ≠ 0#8 ∧ rest.length < c.toNat - 1 :=
  ⟨given [0x02, 0x41, 0x02] none, [0x02, 0x41], 0x02, [], rfl,
    .cons 0x02 [0x41] [] (by decide) (by decide) .nil, by decide, by decide⟩

theorem witness_UnstuffStopsAtAZeroCodeByte : ∃ (s : State) (good rest : List Byte),
    Ref.Blocks good ∧ s.inBuf = good ++ 0#8 :: rest ∧ rest ≠ [] :=
  ⟨given [0x02, 0x41, 0x00, 0x05, 0x06] none, [0x02, 0x41], [0x05, 0x06],
    .cons 0x02 [0x41] [] (by decide) (by decide) .nil, rfl, by decide⟩

theorem witness_UnstuffStopsAtAZeroCodeByte_first : ∃ (s : State) (rest : List Byte), s.inBuf = 0#8 :: rest :=
  ⟨given [0x00, 0x05] none, [0x05], rfl⟩

theorem witness_UnstuffedLength :
    (∃ (s t : State) (bs : List Byte), t.out = some bs ∧ exec .cobsUnstuff s = .next t) ∧
    ∃ (s t : State) (bs : List Byte), t.out = some bs ∧ exec .cobsUnstuffD s = .next t :=
  ⟨⟨given [0x02, 0x41] none, _, [0x41], rfl, rfl⟩, ⟨given [0x02, 0x41, 0x00] none, _, [0x41], rfl, rfl⟩⟩

theorem witness_CobsRoundTrip :
    (∃ r : State, r.inBuf = cobsStuff [0x11, 0x00]) ∧ ∃ r : State, r.inBuf = cobsStuffDelim [0x11, 0x00] :=
  ⟨⟨given [0x02, 0x11, 0x01] none, by decide⟩, ⟨given [0x02, 0x11, 0x01, 0x00] none, by decide⟩⟩

theorem witness_VarintEncGroups : ∃ (s : State) (v : Word64), s.arg = some v ∧ v ≠ 0#64 :=
  ⟨given [] (some 300), 300, rfl, by decide⟩

theorem witness_VarintEncLength :
    (∃ (s : State) (v : Word64), s.arg = some v ∧ v = 0#64) ∧ (∃ (s : State) (v : Word64), s.arg = some v ∧ v = 127#64) ∧
    (∃ (s : State) (v : Word64), s.arg = some v ∧ v = 128#64) ∧
    (∃ (s : State) (v : Word64), s.arg = some v ∧ v = 0xFFFFFFFF#64) ∧
    ∃ (s : State) (v : Word64), s.arg = some v ∧ v = 0xFFFFFFFFFFFFFFFF#64 :=
  ⟨⟨given [] (some 0), _, rfl, rfl⟩, ⟨given [] (some 127), _, rfl, rfl⟩, ⟨given [] (some 128), _, rfl, rfl⟩,
    ⟨given [] (some 0xFFFFFFFF), _, rfl, rfl⟩, ⟨given [] (some 0xFFFFFFFFFFFFFFFF), _, rfl, rfl⟩⟩

theorem witness_VarintNeedsArg : ∃ s : State, s.arg = none := ⟨State.reset, rfl⟩

theorem more_replicate {n : Nat} {b : Byte} (hb : Ref.more b) : ∀ c ∈ List.replicate n b, Ref.more c :=
  fun _ hc => List.eq_of_mem_replicate hc ▸ hb

theorem more_80 : Ref.more 0x80#8 := by unfold Ref.more; decide
theorem not_more {b : Byte} (h : b.toNat < 128) : ¬ Ref.more b := by unfold Ref.more; omega

theorem witness_VarintDecValueAndPosition :
    ∃ (s : State) (p : Word64) (before cont after : List Byte) (last : Byte),
      s.arg = some p ∧ p.toNat = before.length ∧ s.inBuf = before ++ cont ++ last :: after ∧
      (∀ b ∈ cont, Ref.more b) ∧ cont.length ≤ 8 ∧ ¬ Ref.more last :=
  ⟨given ([0x05] ++ List.replicate 8 0x80 ++ 0x7F :: [0x07]) (some 1), 1, [0x05], List.replicate 8 0x80, [0x07],
    0x7F, rfl, rfl, rfl, more_replicate more_80, by simp, not_more (by decide)⟩

/-- A state whose tenth group is `last`, under a policy. -/
def tenth (pol : G10Policy) (last : Byte) : State :=
  { given (List.replicate 9 0x80 ++ [last]) (some 0) with cfg := { Config.default with g10 := pol } }

theorem witness_VarintTenthGroup (pol : G10Policy) (last : Byte) (hl : last.toNat < 128) :
    ∃ (s : State) (p : Word64) (before cont after : List Byte),
      s.arg = some p ∧ p.toNat = before.length ∧ s.inBuf = before ++ cont ++ last :: after ∧
      (∀ b ∈ cont, Ref.more b) ∧ cont.length = 9 ∧ ¬ Ref.more last ∧ s.cfg.g10 = pol :=
  ⟨tenth pol last, 0, [], List.replicate 9 0x80, [], rfl, rfl, rfl, more_replicate more_80, by simp,
    not_more hl, rfl⟩

theorem witness_VarintTenthGroup_bounds : (0x01#8).toNat ≤ 1 ∧ 2 ≤ (0x02#8).toNat ∧ (0x7F#8).toNat < 128 := by
  decide

theorem witness_VarintOverflowOnTenContinuations :
    (∃ (s : State) (p : Word64) (before cont after : List Byte), s.arg = some p ∧ p.toNat = before.length ∧
      (∀ b ∈ cont, Ref.more b) ∧ cont.length = 10 ∧ s.inBuf = before ++ cont ++ after) ∧
    ∃ (s : State) (p : Word64) (before cont after : List Byte), s.arg = some p ∧ p.toNat = before.length ∧
      (∀ b ∈ cont, Ref.more b) ∧ cont.length = 9 ∧ s.inBuf = before ++ cont ++ 0x01#8 :: after :=
  ⟨⟨given (List.replicate 10 0x80) (some 0), 0, [], List.replicate 10 0x80, [], rfl, rfl,
      more_replicate more_80, by simp, by simp [given]⟩,
    ⟨tenth .reject 0x01, 0, [], List.replicate 9 0x80, [], rfl, rfl, more_replicate more_80, by simp, rfl⟩⟩

theorem witness_VarintTruncatedExactly : ∃ (s : State) (p : Word64), s.arg = some p ∧
    (∀ b ∈ s.inBuf.drop p.toNat, Ref.more b) ∧ (s.inBuf.drop p.toNat).length ≤ 9 :=
  ⟨given (List.replicate 9 0x80) (some 0), 0, rfl, more_replicate more_80, by decide⟩

theorem witness_VarintTruncatedExactly_past : ∃ (s : State) (p : Word64), s.arg = some p ∧
    (∀ b ∈ s.inBuf.drop p.toNat, Ref.more b) ∧ (s.inBuf.drop p.toNat).length ≤ 9 :=
  ⟨given [] (some 0xFFFFFFFFFFFFFFFF), 0xFFFFFFFFFFFFFFFF, rfl, by intro b hb; simp [given] at hb,
    by simp [given]⟩

theorem witness_VarintRoundTrip : ∃ (s r : State) (v p : Word64) (before after : List Byte),
    s.arg = some v ∧ r.arg = some p ∧ p.toNat = before.length ∧
    r.inBuf = before ++ varintEncode v ++ after :=
  ⟨given [] (some 300), given [0x00, 0xAC, 0x02, 0x07] (some 1), 300, 1, [0x00], [0x07], rfl, rfl, rfl, by decide⟩

theorem witness_FailureLeavesOnlyStatus : ∃ s t : State, perform s = .next t ∧ t.status ≠ .ok :=
  ⟨issued 3 (given [0xFF] none), _, rfl, by decide⟩

theorem witness_ExecFrame : ∃ (i : Instr) (s t : State), exec i s = .next t :=
  ⟨.varintDec, given [0x05] (some 0), _, rfl⟩

theorem witness_ExecOutputs :
    (∃ s t, exec .crc32 s = .next t) ∧ (∃ s t, exec .cobsStuff s = .next t) ∧
    (∃ s t, exec .cobsStuffD s = .next t) ∧ (∃ s t, exec .varintEnc s = .next t) ∧
    (∃ s t, exec .cobsUnstuff s = .next t) ∧ (∃ s t, exec .cobsUnstuffD s = .next t) ∧
    ∃ s t, exec .varintDec s = .next t :=
  ⟨⟨State.reset, _, rfl⟩, ⟨State.reset, _, rfl⟩, ⟨State.reset, _, rfl⟩, ⟨given [] (some 0), _, rfl⟩,
    ⟨State.reset, _, rfl⟩, ⟨State.reset, _, rfl⟩, ⟨given [0x05] (some 0), _, rfl⟩⟩

theorem witness_PerformEndsOrLacksArg :
    (∃ s : State, s.cmd ≠ none ∧ s.arg = none ∧ s.cmd = some (encode .varintEnc)) ∧
    ∃ s : State, s.cmd ≠ none ∧ s.arg ≠ none :=
  ⟨⟨issued 4 State.reset, by decide, rfl, by decide⟩, ⟨issued 4 (given [] (some 0)), by decide, by decide⟩⟩

theorem witness_ResultsDependOnlyOnInputs : ∃ s r : State,
    s.inBuf = r.inBuf ∧ s.arg = r.arg ∧ s.cfg.g10 = r.cfg.g10 ∧ s ≠ r :=
  ⟨State.reset, { State.reset with res := some 5, status := .ok }, rfl, rfl, rfl, by decide⟩

theorem witness_ArgIsIgnoredByTheOthers : ∃ i : Instr, needsArg i = false := ⟨.cobsUnstuffD, rfl⟩

theorem witness_OutputFitsOutCap : ∃ (i : Instr) (s t : State) (bs : List Byte), s.cfg.wf = true ∧
    withinCap s.cfg.inCap s.inBuf.length = true ∧ exec i s = .next t ∧ t.out = some bs :=
  ⟨.cobsStuffD, { given [0x11] none with cfg := { Config.default with inCap := some 1, outCap := some 10 } }, _,
    [0x02, 0x11, 0x00], by decide, by decide, rfl, by decide⟩

theorem witness_BusyRefusesTheHost : ∃ (s : State) (a : HostAction), s.busy = true ∧ a ≠ .read (.reg .busy) :=
  ⟨issued 1 State.reset, .read (.reg .status), rfl, by decide⟩

theorem witness_ReadsReturnTheRegisters : ∃ s : State, s.busy = false ∧ s.inBuf.length < 2 ^ 64 ∧
    s.arg = some 7#64 ∧ s.res = some 8#64 ∧ s.pos = some 9#64 ∧
    ∃ bs b, s.out = some bs ∧ bs.length < 2 ^ 64 ∧ bs[1]? = some b :=
  ⟨{ given [0x01] (some 7) with res := some 8, pos := some 9, out := some [0x01, 0x02] }, rfl, by decide, rfl, rfl,
    rfl, [0x01, 0x02], 0x02, rfl, by decide, rfl⟩

theorem witness_ReadsWithoutAValueAreModelFaults :
    (∃ s : State, s.busy = false ∧ s.arg = none ∧ s.res = none ∧ s.pos = none ∧ s.out = none) ∧
    ∃ (s : State) (bs : List Byte) (i : Nat), s.busy = false ∧ s.out = some bs ∧ bs.length ≤ i :=
  ⟨⟨State.reset, rfl, rfl, rfl, rfl, rfl⟩,
    ⟨{ State.reset with out := some [0x00] }, [0x00], 1, rfl, rfl, by decide⟩⟩

theorem witness_InputWrites :
    (∃ s : State, s.busy = false ∧ s.cfg.inCap = none) ∧
    ∃ (s : State) (cap : Nat) (bs cs : List Byte), s.busy = false ∧ s.cfg.inCap = some cap ∧
      bs.length ≤ cap ∧ cap < cs.length :=
  ⟨⟨State.reset, rfl, rfl⟩, ⟨{ State.reset with cfg := { Config.default with inCap := some 1 } }, 1, [0x01],
    [0x01, 0x02], rfl, rfl, by decide, by decide⟩⟩

theorem witness_HostTurnsFollowTheSchedule :
    (∃ (s : State) (a : HostAction) (ts : List Turn), s.turns = .host a :: ts) ∧
    (∃ (s : State) (ts : List Turn) (st : Stmt), s.turns = .program :: ts ∧
      s.agent.prog[s.agent.pc]? = some st) ∧
    ∃ (s : State) (ts : List Turn), s.turns = .program :: ts ∧ s.agent.prog[s.agent.pc]? = none :=
  ⟨⟨running [] [.host (.writeArg 5)] State.reset, _, _, rfl⟩, ⟨running [.halt] [.program] State.reset, _, _, rfl, rfl⟩,
    ⟨running [] [.program] State.reset, _, rfl, rfl⟩⟩

theorem witness_ResetEventSetsEveryRegister : ∃ (s : State) (ts : List Turn), s.turns = .reset :: ts :=
  ⟨running [] [.reset] (issued 1 State.reset), _, rfl⟩

theorem witness_IdleBlockKeepsEveryRegister : ∃ s : State, s.busy = false ∧ Ref.blockMoves s :=
  ⟨State.reset, rfl, blockMoves_of_nil rfl⟩

theorem witness_OnlyWriteCmdStartsTheBlock : ∃ s t : State,
    step s = .next t ∧ s.busy = false ∧ t.busy = true :=
  ⟨running [] [.host (.writeCmd 2)] State.reset, _, rfl, rfl, rfl⟩

theorem witness_OnlyPerformWritesOutputs : ∃ s t : State, step s = .next t ∧
    (t.status ≠ s.status ∨ t.out ≠ s.out ∨ t.res ≠ s.res ∨ t.pos ≠ s.pos) :=
  ⟨issued 2 State.reset, _, rfl, .inl (by decide)⟩

theorem witness_OnlyTheHostWritesInputs : ∃ s t : State, step s = .next t ∧
    (t.inBuf ≠ s.inBuf ∨ t.arg ≠ s.arg ∨ t.cmd ≠ s.cmd) :=
  ⟨running [] [.host (.writeArg 5)] State.reset, _, rfl, .inr (.inl (by decide))⟩

theorem witness_HostStepsWhileBusyChangeNoRegister : ∃ s t : State, s.busy = true ∧ ¬ Ref.blockMoves s ∧
    s.turns.head? ≠ some .reset ∧ step s = .next t :=
  ⟨running [.wait] [.program] (issued 1 State.reset), _, rfl,
    fun h => absurd (h .program rfl) (by decide), by decide, rfl⟩

theorem witness_ParametersAreFixed : ∃ s t : State, step s = .next t := ⟨State.reset, _, rfl⟩

/-- The reset registers meet the invariant for parameters that meet R9, here with bounded buffers. -/
theorem witness_StepKeepsTheInvariant : ∃ s t : State, Inv s ∧ step s = .next t :=
  ⟨State.resetWith { Config.default with inCap := some 4, outCap := some 10 } HostAgent.init [.host (.writeCmd 1)], _,
    ⟨by decide, by decide, by simp [State.resetWith], by decide, by decide, by decide, by decide, by decide,
      by decide⟩, rfl⟩

theorem witness_PollingSeesTheCompletion : ∃ (n : Nat) (s : State), s.busy = true ∧ performReady s = true ∧
    s.turns = List.replicate n (.host (.read (.reg .busy))) :=
  ⟨2, running [] (List.replicate 2 (.host (.read (.reg .busy)))) (issued 4 (given [] (some 0))), rfl, by decide, rfl⟩

theorem witness_CmdAndWaitStatements :
    (∃ (s : State) (ts : List Turn), s.turns = .program :: ts ∧
      s.agent.prog[s.agent.pc]? = some (.cmdWord 7) ∧ s.busy = false) ∧
    (∃ (s : State) (ts : List Turn), s.turns = .program :: ts ∧
      s.agent.prog[s.agent.pc]? = some (.cmd .crc32) ∧ s.busy = false) ∧
    (∃ (s : State) (ts : List Turn), s.turns = .program :: ts ∧
      s.agent.prog[s.agent.pc]? = some .wait ∧ s.busy = true) ∧
    ∃ (s : State) (ts : List Turn), s.turns = .program :: ts ∧
      s.agent.prog[s.agent.pc]? = some .wait ∧ s.busy = false :=
  ⟨⟨running [.cmdWord 7] [.program] State.reset, _, rfl, rfl, rfl⟩,
    ⟨running [.cmd .crc32] [.program] State.reset, _, rfl, rfl, rfl⟩,
    ⟨running [.wait] [.program] (issued 1 State.reset), _, rfl, rfl, rfl⟩,
    ⟨running [.wait] [.program] State.reset, _, rfl, rfl, rfl⟩⟩

/-- An idle state with every output register holding a value. -/
def full : State := { State.reset with out := some [0x01], res := some 2, pos := some 3 }

/-- The host at the one statement `st`, its turn next, with the given IN_CAP. -/
def chaining (st : Stmt) (cap : Option Nat) (s : State) : State :=
  { running [st] [.program] s with cfg := { Config.default with inCap := cap } }

/-- Each clause, at its boundary: a sequence of exactly IN_CAP bytes, one of IN_CAP + 1, and a register that
holds ⊥. -/
theorem witness_ChainingStatements (st : Stmt) (cap : Option Nat) :
    (∃ (s : State) (ts : List Turn), s.turns = .program :: ts ∧ s.busy = false ∧
      s.agent.prog[s.agent.pc]? = some st ∧ s.cfg.inCap = cap ∧ s.out = some [0x01] ∧ s.res = some 2 ∧
      s.pos = some 3) ∧
    ∃ (s : State) (ts : List Turn), s.turns = .program :: ts ∧ s.busy = false ∧
      s.agent.prog[s.agent.pc]? = some st ∧ s.cfg.inCap = cap ∧ s.out = none ∧ s.res = none ∧ s.pos = none :=
  ⟨⟨chaining st cap full, _, rfl, rfl, rfl, rfl, rfl, rfl, rfl⟩,
    ⟨chaining st cap State.reset, _, rfl, rfl, rfl, rfl, rfl, rfl, rfl⟩⟩

theorem witness_ChainingStatements_bounds :
    (∀ cap, some 1 = some cap → [0x01#8].length ≤ cap) ∧ 0 < [0x01#8].length ∧
    (∀ cap, some 2 = some cap → [0x05#8].length + [0x01#8].length ≤ cap) ∧
    1 < [0x05#8].length + [0x01#8].length :=
  ⟨fun cap h => by cases h; decide, by decide, fun cap h => by cases h; decide, by decide⟩

theorem witness_ControlStatements :
    (∃ (s : State) (ts : List Turn) (l k : Nat), s.turns = .program :: ts ∧
      (∀ j, j < k → s.agent.prog[j]? ≠ some (.label l)) ∧ s.agent.prog[k]? = some (.label l) ∧
      s.agent.prog[s.agent.pc]? = some (.b l)) ∧
    (∃ (s : State) (ts : List Turn) (l k : Nat) (code : Byte), s.turns = .program :: ts ∧
      (∀ j, j < k → s.agent.prog[j]? ≠ some (.label l)) ∧ s.agent.prog[k]? = some (.label l) ∧
      s.agent.prog[s.agent.pc]? = some (.bneStatus code l) ∧ s.busy = false ∧ s.status.code ≠ code) ∧
    (∃ (s : State) (ts : List Turn) (l k : Nat) (code : Byte), s.turns = .program :: ts ∧
      (∀ j, j < k → s.agent.prog[j]? ≠ some (.label l)) ∧ s.agent.prog[k]? = some (.label l) ∧
      s.agent.prog[s.agent.pc]? = some (.bneStatus code l) ∧ s.busy = false ∧ s.status.code = code) ∧
    (∃ (s : State) (ts : List Turn) (l : Nat), s.turns = .program :: ts ∧
      s.agent.prog[s.agent.pc]? = some (.label l)) ∧
    ∃ (s : State) (ts : List Turn), s.turns = .program :: ts ∧ s.agent.prog[s.agent.pc]? = some .halt :=
  ⟨⟨running [.b 4, .label 4] [.program] State.reset, _, 4, 1, rfl, by decide, rfl, rfl⟩,
    ⟨running [.bneStatus 0x00 4, .label 4] [.program] State.reset, _, 4, 1, 0x00, rfl, by decide, rfl, rfl, rfl,
      by decide⟩,
    ⟨running [.bneStatus 0xFF 4, .label 4] [.program] State.reset, _, 4, 1, 0xFF, rfl, by decide, rfl, rfl, rfl, rfl⟩,
    ⟨running [.label 4] [.program] State.reset, _, 4, rfl, rfl⟩, ⟨running [.halt] [.program] State.reset, _, rfl, rfl⟩⟩

theorem witness_SavedVariablesAreRecalled :
    (∃ (s : State) (x : Nat), s.turns = [.program, .program] ∧ s.busy = false ∧
      s.agent.prog[s.agent.pc]? = some (.save x .out) ∧
      s.agent.prog[s.agent.pc + 1]? = some (.inSeq (.var x)) ∧ s.out = some [0x01] ∧
      ∀ cap, s.cfg.inCap = some cap → [0x01#8].length ≤ cap) ∧
    ∃ (s : State) (x : Nat), s.turns = [.program, .program] ∧ s.busy = false ∧
      s.agent.prog[s.agent.pc]? = some (.save x .res) ∧
      s.agent.prog[s.agent.pc + 1]? = some (.arg (.var x)) ∧ s.res = some 2 :=
  ⟨⟨{ running [.save 0 .out, .inSeq (.var 0)] [.program, .program] full with
        cfg := { Config.default with inCap := some 1 } }, 0, rfl, rfl, rfl, rfl, rfl,
      fun cap h => by cases h; decide⟩,
    ⟨running [.save 0 .res, .arg (.var 0)] [.program, .program] full, 0, rfl, rfl, rfl, rfl, rfl⟩⟩

theorem witness_RunIssuesAndWaits : ∃ (s u : State) (i : Instr), s.busy = false ∧
    s.turns = [.program, .block, .program] ∧ s.agent.prog[s.agent.pc]? = some (.cmd i) ∧
    s.agent.prog[s.agent.pc + 1]? = some .wait ∧
    exec i { s with cmd := some (encode i), busy := true } = .next u :=
  ⟨running (Stmt.run .crc32) [.program, .block, .program] State.reset, _, .crc32, rfl, rfl, rfl, rfl, rfl⟩

end Sys2Proof.Tests
end

section
/-! PROOF. The longest output of each command, against the least OUT_CAP that 00_scope.md R9 allows. -/

namespace Sys2Proof.Machine

/-- A rollover costs one byte per 254 input bytes (R104). The run gathered so far counts as input. -/
theorem stuffFrom_length_le (run bs : List Byte) (hrun : run.length ≤ 253) :
    (stuffFrom run bs).length ≤ run.length + bs.length + 1 + (run.length + bs.length) / 254 := by
  induction bs generalizing run with
  | nil => simp [stuffFrom_nil]
  | cons b bs ih =>
    have hfresh := ih [] (Nat.zero_le _)
    rw [List.length_nil] at hfresh
    by_cases hb : b = 0#8
    · subst hb
      simp only [stuffFrom_zero, List.length_cons, List.length_append]
      omega
    · by_cases hfull : run.length = 253
      · simp only [stuffFrom_rollover bs hb hfull, List.length_cons, List.length_append, List.length_nil]
        omega
      · have hmore := ih (run ++ [b]) (by rw [List.length_append, List.length_singleton]; omega)
        simp only [List.length_append, List.length_cons, List.length_nil] at hmore
        simp only [stuffFrom_literal bs hb hfull, List.length_cons]
        omega

theorem cobsStuff_length_le (bs : List Byte) :
    (cobsStuff bs).length ≤ bs.length + 1 + bs.length / 254 := by
  simpa [cobsStuff] using stuffFrom_length_le [] bs (Nat.zero_le _)

/-- The zero that a block may append takes the place of its code byte (R110). -/
theorem unstuffFuel_length_le {n : Nat} {bs out : List Byte} (h : unstuffFuel n bs = .ok out) :
    out.length ≤ bs.length := by
  induction n generalizing bs out with
  | zero => simp only [unstuffFuel] at h; cases h; exact Nat.zero_le _
  | succ n ih =>
    cases bs with
    | nil => simp only [unstuffFuel] at h; cases h; exact Nat.zero_le _
    | cons c rest =>
      simp only [unstuffFuel] at h
      split at h
      · cases h; exact Nat.zero_le _
      · split at h
        · cases h
        · split at h
          · cases h
          · rename_i tail htail
            cases h
            have htail_le := ih htail
            have hzero_le : (if c.toNat < 0xFF ∧ rest.drop (c.toNat - 1) ≠ [] then [0#8] else []).length ≤ 1 := by
              split <;> simp
            simp only [List.length_append, List.length_take, List.length_drop, List.length_cons]
              at htail_le ⊢
            omega

theorem cobsUnstuff_length_le {bs out : List Byte} (h : cobsUnstuff bs = .ok out) :
    out.length ≤ bs.length := unstuffFuel_length_le h

theorem varintEncode_length_le (v : Word64) : (varintEncode v).length ≤ 10 := encodeFuel_length_le 10 v

theorem commitOut_out {r : Except Status (List Byte)} {s t : State} {bs : List Byte}
    (h : commitOut r s = .next t) (hout : t.out = some bs) : r = .ok bs := by
  cases r with
  | ok xs => cases h; simpa using hout
  | error st => cases h; simp at hout

theorem commitResPos_out {r : Except Status (Word64 × Nat)} {s t : State}
    (h : commitResPos r s = .next t) : t.out = none := by
  cases r with
  | ok vp => cases h; rfl
  | error st => cases h; rfl

theorem outCapMin_mono {m n : Nat} (h : m ≤ n) : Config.outCapMin m ≤ Config.outCapMin n := by
  simp only [Config.outCapMin]
  omega

theorem ten_le_outCapMin (n : Nat) : 10 ≤ Config.outCapMin n := le_max_left _ _

/-- A stuffed frame with its delimiter, the longest output of the COBS commands, is within R9's bound. -/
theorem frame_le_outCapMin (n : Nat) : n + 1 + n / 254 + 1 ≤ Config.outCapMin n := by
  simp only [Config.outCapMin]
  omega

/-- The bound of R9 on OUT_CAP is one on the output of every command. -/
theorem exec_out_length_le {i : Instr} {s t : State} {bs : List Byte} (h : exec i s = .next t)
    (hout : t.out = some bs) : bs.length ≤ Config.outCapMin s.inBuf.length := by
  have hframe := frame_le_outCapMin s.inBuf.length
  have hstuff := cobsStuff_length_le s.inBuf
  cases i with
  | crc32 => cases h; simp at hout
  | cobsStuff =>
    cases commitOut_out (r := .ok (cobsStuff s.inBuf)) h hout
    omega
  | cobsStuffD =>
    cases commitOut_out (r := .ok (cobsStuffDelim s.inBuf)) h hout
    simp only [cobsStuffDelim, List.length_append, List.length_cons, List.length_nil]
    omega
  | cobsUnstuff =>
    have := cobsUnstuff_length_le (commitOut_out h hout)
    omega
  | cobsUnstuffD =>
    have := cobsUnstuff_length_le (commitOut_out h hout)
    have := stripDelimiter_length_le s.inBuf
    omega
  | varintEnc =>
    cases harg : s.arg with
    | none => simp only [exec, execVarintEnc, withArg_none harg] at h; cases h
    | some v =>
      simp only [exec, execVarintEnc, withArg_some harg] at h
      cases commitOut_out (r := .ok (varintEncode v)) h hout
      exact (varintEncode_length_le v).trans (ten_le_outCapMin _)
  | varintDec =>
    cases harg : s.arg with
    | none => simp only [exec, execVarintDec, withArg_none harg] at h; cases h
    | some p =>
      simp only [exec, execVarintDec, withArg_some harg] at h
      simp [commitResPos_out h] at hout

/-- What R9's condition on the capacities is for: an output within the bound for an IN that fits, fits. -/
theorem withinCap_outCap_of_le_outCapMin {c : Config} {n m : Nat} (hwf : c.wf = true)
    (hin : withinCap c.inCap n = true) (hm : m ≤ Config.outCapMin n) :
    withinCap c.outCap m = true := by
  unfold Config.wf at hwf
  split at hwf
  · rename_i ho; rw [ho]; rfl
  · cases hwf
  · rename_i i o hi ho
    rw [hi, withinCap_some, decide_eq_true_eq] at hin
    rw [decide_eq_true_eq] at hwf
    rw [ho, withinCap_some, decide_eq_true_eq]
    exact hm.trans ((outCapMin_mono hin).trans hwf)

/-- Settles O36: each command's output is within the bound of R9 for its IN, and the bound is monotone. -/
theorem outputFitsOutCap : Obligations.OutputFitsOutCap := by
  intro i s t bs hwf hin h hout
  exact withinCap_outCap_of_le_outCapMin hwf hin (exec_out_length_le h hout)

end Sys2Proof.Machine
end

section
/-! PROOF. A rule for what every step keeps: one case per kind of change a step can make. -/

namespace Sys2Proof.Machine

/-- Everything a step can do to a state keeps `P`: the block's perform step, the reset event, the three
writes of the host while BUSY = 0, and changes of the host agent and of the schedule. -/
structure StepClosed (P : State → Prop) : Prop where
  perform : ∀ {s t}, P s → s.busy = true → perform s = .next t → P t
  reset : ∀ {s}, P s → P (resetEvent s)
  setIn : ∀ {s bs}, P s → s.busy = false → withinCap s.cfg.inCap bs.length = true → P (setIn bs s)
  setArg : ∀ {s v}, P s → s.busy = false → P (setArg v s)
  issue : ∀ {s w}, P s → s.busy = false → P (issue w s)
  agent : ∀ {s a}, P s → P { s with agent := a }
  turns : ∀ {s ts}, P s → P { s with turns := ts }

/-- What a program turn that answers a next state did: a statement, or nothing past the last one. -/
theorem programTurn_next {s t : State} (h : programTurn s = .next t) :
    (∃ st, s.agent.prog[s.agent.pc]? = some st ∧ execStmt st s = .next t) ∨ t = s := by
  unfold programTurn at h
  split at h
  · exact .inl ⟨_, ‹_›, h⟩
  · cases h; exact .inr rfl

section

variable {P : State → Prop} {s t : State}

theorem StepClosed.blockTurn (hP : StepClosed P) (hs : P s) (h : blockTurn s = .next t) : P t := by
  obtain ⟨hbusy, hperform⟩ | ⟨-, rfl⟩ := blockTurn_next h
  · exact hP.perform hs hbusy hperform
  · exact hs

theorem StepClosed.hostAct {a : HostAction} (hP : StepClosed P) (hs : P s) (h : hostAct a s = .next t) :
    P t := by
  obtain ⟨bs, -, hbusy, hfits, rfl⟩ | ⟨v, -, hbusy, rfl⟩ | ⟨w, -, hbusy, rfl⟩ | ⟨q, v, -, -, rfl⟩ := hostAct_next h
  · exact hP.setIn hs hbusy hfits
  · exact hP.setArg hs hbusy
  · exact hP.issue hs hbusy
  · exact hP.agent hs

theorem StepClosed.execStmt {st : Stmt} (hP : StepClosed P) (hs : P s) (h : execStmt st s = .next t) :
    P t := by
  obtain ⟨e, bs, -, -, hbusy, hfits, rfl⟩ | ⟨e, v, -, -, hbusy, rfl⟩ | ⟨w, -, hbusy, rfl⟩ | ⟨a, rfl⟩ :=
    execStmt_next h
  · exact hP.agent (hP.setIn hs hbusy hfits)
  · exact hP.agent (hP.setArg hs hbusy)
  · exact hP.agent (hP.issue hs hbusy)
  · exact hP.agent hs

theorem StepClosed.programTurn (hP : StepClosed P) (hs : P s) (h : programTurn s = .next t) : P t := by
  obtain ⟨st, -, hst⟩ | rfl := programTurn_next h
  · exact hP.execStmt hs hst
  · exact hs

theorem StepClosed.step (hP : StepClosed P) (hs : P s) (h : step s = .next t) : P t := by
  obtain ⟨u, ⟨-, rfl, hblock⟩ | ⟨ts, rfl, hturn⟩⟩ := step_next h
  · exact hP.blockTurn hs hblock
  · obtain ⟨-, hblock⟩ | ⟨a, -, hact⟩ | ⟨-, hprog⟩ | ⟨-, rfl⟩ := hturn
    · exact hP.blockTurn (hP.turns hs) hblock
    · exact hP.hostAct (hP.turns hs) hact
    · exact hP.programTurn (hP.turns hs) hprog
    · exact hP.reset (hP.turns hs)

theorem Completed.cfg_eq (h : Completed s t) : t.cfg = s.cfg := by
  cases h <;> rfl

theorem perform_cfg (h : perform s = .next t) : t.cfg = s.cfg := by
  obtain hcompleted | rfl := perform_next h
  · exact hcompleted.cfg_eq
  · rfl

/-- No change that a step can make touches the parameters (R9). -/
theorem cfg_stepClosed (c : Config) : StepClosed fun s => s.cfg = c where
  perform hs _ h := (perform_cfg h).trans hs
  reset hs := hs
  setIn hs _ _ := hs
  setArg hs _ := hs
  issue hs _ := hs
  agent hs := hs
  turns hs := hs

end

/-- Settles O50: "the parameters are those of `s`" is closed under steps. -/
theorem parametersAreFixed : Obligations.ParametersAreFixed :=
  fun s _ h => (cfg_stepClosed s.cfg).step rfl h

end Sys2Proof.Machine
end

section
/-! PROOF. Each change a step can make keeps the invariant of Safety.lean. -/

namespace Sys2Proof.Machine

section

variable {s t : State}

/-- A completed command keeps the invariant if its outputs are those of R75 for its status: OUT or RES but
not both exactly on success, POS only with RES, and an OUT that fits. -/
theorem inv_finish {st : Status} {out : Option (List Byte)} {res pos : Option Word64} (hs : Inv s)
    (hcmd : s.cmd ≠ none) (hfits : ∀ bs, out = some bs → withinCap s.cfg.outCap bs.length = true)
    (hok : st = .ok ↔ out ≠ none ∨ res ≠ none) (hexcl : out ≠ none → res = none)
    (hpos : pos ≠ none → res ≠ none) :
    Inv (finish st { s with out := out, res := res, pos := pos }) where
  cfgWf := hs.cfgWf
  inFits := hs.inFits
  outFits := hfits
  busyCmd := by simp
  freshStatus h := absurd h hcmd
  resultOk
    | .inl ho => hok.mpr (.inl ho)
    | .inr (.inl hr) => hok.mpr (.inr hr)
    | .inr (.inr hp) => hok.mpr (.inr (hpos hp))
  okResult := hok.mp
  outNoRes := hexcl
  posRes := hpos

/-- A failure clears what an earlier success could have left (R205). -/
theorem inv_raise {st : Status} (hs : Inv s) (hcmd : s.cmd ≠ none) (hst : st ≠ .ok) : Inv (raise st s) :=
  inv_finish hs hcmd (by simp) (by simpa using hst) (by simp) (by simp)

/-- A command keeps the invariant in each of its four shapes; that its output fits is R9's bound. -/
theorem inv_exec {i : Instr} (hs : Inv s) (hcmd : s.cmd ≠ none) (h : exec i s = .next t) : Inv t := by
  have hfits : ∀ bs, t.out = some bs → withinCap s.cfg.outCap bs.length = true :=
    fun bs => outputFitsOutCap i s t bs hs.cfgWf hs.inFits h
  cases exec_next h with
  | out bs => exact inv_finish (s := s) hs hcmd hfits (by simp) (by simp) (by simp)
  | res v => exact inv_finish (s := s) hs hcmd hfits (by simp) (by simp) (by simp)
  | resPos v p => exact inv_finish (s := s) hs hcmd hfits (by simp) (by simp) (by simp)
  | error st hst => exact inv_raise hs hcmd (by rintro rfl; simp at hst)

/-- What a perform step that answers a next state did: the command of the word in CMD, or the error entry for
an illegal word (R81, R201). -/
theorem perform_next_of_cmd (h : perform s = .next t) :
    ∃ w, s.cmd = some w ∧
      ((∃ i, decode w = .ok i ∧ exec i s = .next t) ∨
        ∃ e, decode w = .error e ∧ t = raise .illegalCommand s) := by
  unfold perform at h
  split at h
  · cases h
  · rename_i w hw
    refine ⟨w, hw, ?_⟩
    unfold performWord at h
    split at h
    · exact .inl ⟨_, ‹_›, h⟩
    · cases h; exact .inr ⟨_, ‹_›, rfl⟩

theorem inv_perform (hs : Inv s) (h : perform s = .next t) : Inv t := by
  obtain ⟨w, hw, ⟨i, -, hexec⟩ | ⟨e, -, rfl⟩⟩ := perform_next_of_cmd h
  · exact inv_exec hs (by simp [hw]) hexec
  · exact inv_raise hs (by simp [hw]) (by decide)

theorem inv_resetEvent (hs : Inv s) : Inv (resetEvent s) where
  cfgWf := hs.cfgWf
  inFits := withinCap_mono (Nat.zero_le _) hs.inFits
  outFits := by simp
  busyCmd := by simp
  freshStatus := by simp
  resultOk := by simp
  okResult := by simp
  outNoRes := by simp
  posRes := by simp

/-- A command that is issued has its word in CMD; the results of the one before stay (R80). -/
theorem inv_issue {w : Word32} (hs : Inv s) : Inv (issue w s) :=
  { hs with busyCmd := by simp, freshStatus := by simp }

theorem inv_stepClosed : StepClosed Inv where
  perform hs _ h := inv_perform hs h
  reset := inv_resetEvent
  setIn hs _ hfits := { hs with inFits := hfits }
  setArg hs _ := { hs with }
  issue hs _ := inv_issue hs
  agent hs := { hs with }
  turns hs := { hs with }

end

/-- Settles O52: every change a step can make keeps the invariant. -/
theorem stepKeepsTheInvariant : Obligations.StepKeepsTheInvariant :=
  fun _ _ hs h => inv_stepClosed.step hs h

end Sys2Proof.Machine
end

section
/-! PROOF. What a command's outcome depends on: IN, ARG and the tenth-group policy (30_encoding.md R75), and
ARG for the varint commands only (10_state.md R25). -/

namespace Sys2Proof.Machine

/-- Two steps with the same outcome as far as the block's results go: next states that agree on OUT, RES, POS
and STATUS, or one fault. -/
def SameResults (o p : Host.Outcome State Fault Refusal) : Prop :=
  (∃ t u, o = .next t ∧ p = .next u ∧
    t.out = u.out ∧ t.res = u.res ∧ t.pos = u.pos ∧ t.status = u.status) ∨
  ∃ f, o = .fault f ∧ p = .fault f

section

variable {s r : State}

theorem sameResults_succeedOut (bs : List Byte) :
    SameResults (.next (succeedOut bs s)) (.next (succeedOut bs r)) :=
  .inl ⟨_, _, rfl, rfl, rfl, rfl, rfl, rfl⟩

theorem sameResults_succeedRes (v : Word64) :
    SameResults (.next (succeedRes v s)) (.next (succeedRes v r)) :=
  .inl ⟨_, _, rfl, rfl, rfl, rfl, rfl, rfl⟩

theorem sameResults_raise (st : Status) : SameResults (.next (raise st s)) (.next (raise st r)) :=
  .inl ⟨_, _, rfl, rfl, rfl, rfl, rfl, rfl⟩

theorem sameResults_commitOut (x : Except Status (List Byte)) :
    SameResults (commitOut x s) (commitOut x r) := by
  cases x with
  | ok bs => exact sameResults_succeedOut bs
  | error st => exact sameResults_raise st

theorem sameResults_commitResPos (x : Except Status (Word64 × Nat)) :
    SameResults (commitResPos x s) (commitResPos x r) := by
  cases x with
  | ok vp => exact .inl ⟨_, _, rfl, rfl, rfl, rfl, rfl, rfl⟩
  | error st => exact sameResults_raise st

/-- With equal ARG, either both operations get the same operand or both stop with MF4 (R81). -/
theorem sameResults_withArg {k l : Word64 → Host.Outcome State Fault Refusal} (harg : s.arg = r.arg)
    (h : ∀ v, SameResults (k v) (l v)) : SameResults (withArg s k) (withArg r l) := by
  cases hr : r.arg with
  | none => exact .inr ⟨_, withArg_none (harg.trans hr) k, withArg_none hr l⟩
  | some v =>
    rw [withArg_some (harg.trans hr), withArg_some hr]
    exact h v

/-- An operation with a byte-sequence output carries ARG through unread. -/
theorem commitOut_ignores_arg (x : Except Status (List Byte)) (s : State) (a : Option Word64) :
    ∃ t, commitOut x s = .next t ∧ commitOut x { s with arg := a } = .next { t with arg := a } := by
  cases x with
  | ok bs => exact ⟨_, rfl, rfl⟩
  | error st => exact ⟨_, rfl, rfl⟩

end

/-- Settles O34: each command commits a function of IN, ARG and the policy. -/
theorem resultsDependOnlyOnInputs : Obligations.ResultsDependOnlyOnInputs := by
  intro i s r hin harg hpol
  show SameResults (exec i s) (exec i r)
  cases i with
  | crc32 => simpa only [exec, execCrc32, hin] using sameResults_succeedRes _
  | cobsStuff => simpa only [exec, execCobsStuff, hin] using sameResults_succeedOut _
  | cobsStuffD => simpa only [exec, execCobsStuffD, hin] using sameResults_succeedOut _
  | cobsUnstuff => simpa only [exec, execCobsUnstuff, hin] using sameResults_commitOut _
  | cobsUnstuffD => simpa only [exec, execCobsUnstuffD, hin] using sameResults_commitOut _
  | varintEnc => exact sameResults_withArg harg fun v => sameResults_succeedOut (varintEncode v)
  | varintDec =>
    simp only [exec, execVarintDec, hin, hpol]
    exact sameResults_withArg harg fun p => sameResults_commitResPos _

/-- Settles O24: both commands ask for ARG before anything else. -/
theorem varintNeedsArg : Obligations.VarintNeedsArg :=
  fun _ harg => ⟨withArg_none harg _, withArg_none harg _⟩

/-- Settles O35: none of the five reads ARG. -/
theorem argIsIgnoredByTheOthers : Obligations.ArgIsIgnoredByTheOthers := by
  intro i s a hi
  cases i with
  | crc32 => exact ⟨_, rfl, rfl⟩
  | cobsStuff => exact ⟨_, rfl, rfl⟩
  | cobsStuffD => exact ⟨_, rfl, rfl⟩
  | cobsUnstuff => exact commitOut_ignores_arg _ s a
  | cobsUnstuffD => exact commitOut_ignores_arg _ s a
  | varintEnc => cases hi
  | varintDec => cases hi

end Sys2Proof.Machine
end

section
/-! PROOF. Which register changes by whose step (10_state.md R22 to R30, R37): one inversion of a step by its
effect on the registers, and the ownership rules read off it. -/

namespace Sys2Proof.Machine

/-- The host's next step is a write of `w` to CMD: its WriteCmd action, or a `cmd` statement of its program
(R78, R80). -/
def WritesCmd (s : State) (w : Word32) : Prop :=
  s.turns.head? = some (.host (.writeCmd w)) ∨
    s.turns.head? = some .program ∧
      (s.agent.prog[s.agent.pc]? = some (.cmdWord w) ∨
        ∃ i, s.agent.prog[s.agent.pc]? = some (.cmd i) ∧ w = encode i)

/-- Every effect a step can have, by what it does to the block's registers. The host agent's own state after a
step of the host is `a`. -/
inductive StepEffect (s : State) : State → Prop where
  /-- the block performs the pending command (R81) -/
  | performed {t : State} (hblock : Ref.blockMoves s) (hbusy : s.busy = true)
      (h : perform (Ref.popped s) = .next t) : StepEffect s t
  /-- the reset event (R230) -/
  | reset (hturn : s.turns.head? = some .reset) : StepEffect s (resetEvent (Ref.popped s))
  /-- the host writes IN (R26) -/
  | wroteIn (bs : List Byte) (a : HostAgent) (hhost : ¬ Ref.blockMoves s) (hidle : s.busy = false) :
      StepEffect s { setIn bs (Ref.popped s) with agent := a }
  /-- the host writes ARG (R25) -/
  | wroteArg (v : Word64) (a : HostAgent) (hhost : ¬ Ref.blockMoves s) (hidle : s.busy = false) :
      StepEffect s { setArg v (Ref.popped s) with agent := a }
  /-- the host writes CMD and so starts the block (R80) -/
  | wroteCmd (w : Word32) (a : HostAgent) (hhost : ¬ Ref.blockMoves s) (hidle : s.busy = false)
      (hw : WritesCmd s w) : StepEffect s { issue w (Ref.popped s) with agent := a }
  /-- no register changes: an idle block, a read, a control statement of the host -/
  | kept (a : HostAgent) : StepEffect s { Ref.popped s with agent := a }

section

variable {s t : State} {ts : List Turn}

theorem not_blockMoves_of_head {tn : Turn} (h : s.turns.head? = some tn) (hne : tn ≠ .block) :
    ¬ Ref.blockMoves s :=
  fun hblock => hne (hblock tn h)

/-- The block moves when the schedule is used up or its next entry is the block's (log 1). -/
theorem blockMoves_iff : Ref.blockMoves s ↔ s.turns = [] ∨ ∃ ts, s.turns = .block :: ts := by
  unfold Ref.blockMoves
  cases s.turns <;> simp

theorem popped_of_cons {tn : Turn} (h : s.turns = tn :: ts) : { s with turns := ts } = Ref.popped s := by
  simp only [Ref.popped, h, List.tail_cons]

theorem popped_of_nil (h : s.turns = []) : Ref.popped s = s := by
  rw [Ref.popped, h, List.tail_nil, ← h]

theorem stepEffect_blockTurn (hblock : Ref.blockMoves s) (h : blockTurn (Ref.popped s) = .next t) :
    StepEffect s t := by
  obtain ⟨hbusy, hperform⟩ | ⟨-, rfl⟩ := blockTurn_next h
  · exact .performed hblock hbusy hperform
  · exact .kept s.agent

theorem stepEffect_hostAct {a : HostAction} (hturn : s.turns.head? = some (.host a))
    (h : hostAct a (Ref.popped s) = .next t) : StepEffect s t := by
  have hhost : ¬ Ref.blockMoves s := not_blockMoves_of_head hturn (by simp)
  obtain ⟨bs, -, hidle, -, rfl⟩ | ⟨v, -, hidle, rfl⟩ | ⟨w, rfl, hidle, rfl⟩ | ⟨q, v, -, -, rfl⟩ :=
    hostAct_next h
  · exact .wroteIn bs s.agent hhost hidle
  · exact .wroteArg v s.agent hhost hidle
  · exact .wroteCmd w s.agent hhost hidle (.inl hturn)
  · exact .kept _

theorem stepEffect_programTurn (hturn : s.turns.head? = some .program)
    (h : programTurn (Ref.popped s) = .next t) : StepEffect s t := by
  have hhost : ¬ Ref.blockMoves s := not_blockMoves_of_head hturn (by simp)
  obtain ⟨st, hst, hexec⟩ | rfl := programTurn_next h
  · obtain ⟨e, bs, -, -, hidle, -, rfl⟩ | ⟨e, v, -, -, hidle, rfl⟩ | ⟨w, hcmd, hidle, rfl⟩ | ⟨a, rfl⟩ :=
      execStmt_next hexec
    · exact .wroteIn bs _ hhost hidle
    · exact .wroteArg v _ hhost hidle
    · refine .wroteCmd w _ hhost hidle (.inr ⟨hturn, ?_⟩)
      obtain rfl | ⟨i, rfl, hw⟩ := hcmd
      · exact .inl hst
      · exact .inr ⟨i, hst, hw⟩
    · exact .kept a
  · exact .kept s.agent

/-- Every step that answers a next state has one of the six effects. -/
theorem step_effect (h : step s = .next t) : StepEffect s t := by
  obtain ⟨u, ⟨hnil, rfl, hblock⟩ | ⟨ts, rfl, hturn⟩⟩ := step_next h
  · exact stepEffect_blockTurn (blockMoves_iff.mpr (.inl hnil)) ((popped_of_nil hnil).symm ▸ hblock)
  · obtain ⟨hts, hblock⟩ | ⟨a, hts, hact⟩ | ⟨hts, hprog⟩ | ⟨hts, rfl⟩ := hturn
    · rw [popped_of_cons hts] at hblock
      exact stepEffect_blockTurn (blockMoves_iff.mpr (.inr ⟨ts, hts⟩)) hblock
    · rw [popped_of_cons hts] at hact
      exact stepEffect_hostAct (by rw [hts]; rfl) hact
    · rw [popped_of_cons hts] at hprog
      exact stepEffect_programTurn (by rw [hts]; rfl) hprog
    · rw [popped_of_cons hts]
      exact .reset (by rw [hts]; rfl)

/-- A perform step leaves the three inputs alone and clears BUSY (R81). -/
theorem Completed.inputs_eq (h : Completed s t) :
    t.inBuf = s.inBuf ∧ t.arg = s.arg ∧ t.cmd = s.cmd ∧ t.busy = false := by
  cases h <;> exact ⟨rfl, rfl, rfl, rfl⟩

theorem perform_inputs (h : perform s = .next t) :
    t.inBuf = s.inBuf ∧ t.arg = s.arg ∧ t.cmd = s.cmd ∧ t.busy = false := by
  obtain hcompleted | rfl := perform_next h
  · exact hcompleted.inputs_eq
  · exact ⟨rfl, rfl, rfl, rfl⟩

end

/-- Settles O46: of the six effects, only a write of CMD raises BUSY. -/
theorem onlyWriteCmdStartsTheBlock : Obligations.OnlyWriteCmdStartsTheBlock := by
  intro s t h hidle hbusy
  cases step_effect h with
  | performed hblock hpending hperform => simp [hidle] at hpending
  | reset hturn => cases hbusy
  | wroteIn bs a hhost _ => exact absurd (hidle.symm.trans hbusy) (by decide)
  | wroteArg v a hhost _ => exact absurd (hidle.symm.trans hbusy) (by decide)
  | wroteCmd w a hhost _ hw => exact ⟨w, rfl, hw⟩
  | kept a => exact absurd (hidle.symm.trans hbusy) (by decide)

/-- Settles O47: the host's effects leave the four output registers as they are. -/
theorem onlyPerformWritesOutputs : Obligations.OnlyPerformWritesOutputs := by
  intro s t h hchange
  cases step_effect h with
  | performed hblock hbusy hperform => exact .inl ⟨hblock, hbusy⟩
  | reset hturn => exact .inr hturn
  | wroteIn bs a hhost hidle => simp [Ref.popped] at hchange
  | wroteArg v a hhost hidle => simp [Ref.popped] at hchange
  | wroteCmd w a hhost hidle hw => simp [Ref.popped] at hchange
  | kept a => simp [Ref.popped] at hchange

/-- Settles O48: the block's effects leave the three input registers as they are. -/
theorem onlyTheHostWritesInputs : Obligations.OnlyTheHostWritesInputs := by
  intro s t h hchange
  cases step_effect h with
  | performed hblock hbusy hperform =>
    obtain ⟨hin, harg, hcmd, -⟩ := perform_inputs hperform
    simp [hin, harg, hcmd, Ref.popped] at hchange
  | reset hturn => exact ⟨not_blockMoves_of_head hturn (by simp), .inr hturn⟩
  | wroteIn bs a hhost hidle => exact ⟨hhost, .inl hidle⟩
  | wroteArg v a hhost hidle => exact ⟨hhost, .inl hidle⟩
  | wroteCmd w a hhost hidle hw => exact ⟨hhost, .inl hidle⟩
  | kept a => simp [Ref.popped] at hchange

/-- Settles O49: with BUSY = 1 and the host to move, only the effect that keeps every register is left. -/
theorem hostStepsWhileBusyChangeNoRegister : Obligations.HostStepsWhileBusyChangeNoRegister := by
  intro s t hbusy hhost hreset h
  cases step_effect h with
  | performed hblock _ hperform => exact absurd hblock hhost
  | reset hturn => exact absurd hturn hreset
  | wroteIn bs a _ hidle => simp [hbusy] at hidle
  | wroteArg v a _ hidle => simp [hbusy] at hidle
  | wroteCmd w a _ hidle hw => simp [hbusy] at hidle
  | kept a => rfl

end Sys2Proof.Machine
end

section
/-! PROOF. The host's reads and writes while BUSY = 0 (10_state.md R25, R26, R36 to R38), and the registers of
the reset state (R39). -/

namespace Sys2Proof.Machine

section

variable {s : State}

@[simp] theorem cell_none_map {α : Type} (r : Reg) (f : α → ReadVal) :
    (cell r none).map f = .error (.bottomRead r) := rfl

theorem readReq_of_idle (hidle : s.busy = false) (q : ReadReq) : readReq s q = readNow s q := by
  simp [readReq, hidle]

/-- A read that has no value now is that model fault (R38, R210). -/
theorem hostAct_read_of_error {q : ReadReq} {f : Fault} (hidle : s.busy = false)
    (h : readNow s q = .error f) : hostAct (.read q) s = .fault f := by
  simp only [hostAct, hostRead, readReq_of_idle hidle, h]

theorem hostAct_writeArg_of_idle (hidle : s.busy = false) (v : Word64) :
    hostAct (.writeArg v) s = .next (setArg v s) := by
  simp [hostAct, hostWriteArg, hidle]

theorem hostAct_writeIn_of_fits {bs : List Byte} (hidle : s.busy = false)
    (hfits : withinCap s.cfg.inCap bs.length = true) : hostAct (.writeIn bs) s = .next (setIn bs s) := by
  simp [hostAct, hostWriteIn, hidle, hfits]

theorem hostAct_writeIn_of_not_fits {bs : List Byte} (hidle : s.busy = false)
    (hfits : withinCap s.cfg.inCap bs.length = false) :
    hostAct (.writeIn bs) s = .fault .inCapExceeded := by
  simp [hostAct, hostWriteIn, hidle, hfits]

end

/-- Settles O40: each of these reads has no value (R38). -/
theorem readsWithoutAValueAreModelFaults : Obligations.ReadsWithoutAValueAreModelFaults := by
  intro s hidle
  refine ⟨?cmd, fun harg => ?arg, fun hres => ?res, fun hpos => ?pos,
    fun hout => ⟨?out, ?outLen, fun i => ?outByte⟩, fun bs i hout hlen => ?pastEnd⟩ <;>
    apply hostAct_read_of_error hidle
  case cmd => rfl
  case arg => simp [readNow, harg]
  case res => simp [readNow, hres]
  case pos => simp [readNow, hpos]
  case out => simp [readNow, hout]
  case outLen => simp [readNow, State.outLen, hout]
  case outByte => simp [readNow, hout]
  case pastEnd => simp [readNow, hout, List.getElem?_eq_none hlen]

/-- Settles O41: the write's result by whether the sequence fits IN_CAP. -/
theorem inputWrites : Obligations.InputWrites := by
  intro s hidle
  refine ⟨hostAct_writeArg_of_idle hidle, fun bs hcap => ?unbounded,
    fun bs cap hcap => ⟨fun hle => ?fits, fun hlt => ?exceeds⟩⟩
  case unbounded => exact hostAct_writeIn_of_fits hidle (by rw [hcap, withinCap_none])
  case fits => exact hostAct_writeIn_of_fits hidle (by simpa [hcap] using hle)
  case exceeds => exact hostAct_writeIn_of_not_fits hidle (by simpa [hcap] using hlt)

/-- Settles O44: the values of R230, written into `State.resetWith`. -/
theorem resetState : Obligations.ResetState :=
  ⟨rfl, rfl, rfl, rfl, rfl, rfl, rfl, rfl, rfl, rfl⟩

end Sys2Proof.Machine
end

section
/-! PROOF. The decoder (30_encoding.md R70 to R77): the fields of a word as numbers, the fields that name a
command, and decode as the inverse of encode. -/

namespace Sys2Proof

/-- The four fields lie next to each other and cover the word (R70). -/
theorem Format.toWord_ofWord (w : Word32) : (Format.ofWord w).toWord = w := by
  simp only [Format.toWord, Format.ofWord]
  rw [BitVec.extractLsb'_append_extractLsb'_eq_extractLsb' (start₁ := 8) (len₁ := 1) rfl,
    BitVec.extractLsb'_append_extractLsb'_eq_extractLsb' (start₁ := 4) (len₁ := 4) rfl,
    BitVec.extractLsb'_append_extractLsb'_eq_extractLsb' (start₁ := 0) (len₁ := 4) rfl]
  exact BitVec.extractLsb'_eq_self

theorem Format.ofWord_rsvHi_toNat (w : Word32) : (Format.ofWord w).rsvHi.toNat = w.toNat / 512 := by
  have hw := w.isLt
  simp only [Format.ofWord, BitVec.extractLsb'_toNat, Nat.shiftRight_eq_div_pow]
  omega

theorem Format.ofWord_d_toNat (w : Word32) : (Format.ofWord w).d.toNat = w.toNat / 256 % 2 := by
  simp [Format.ofWord, Nat.shiftRight_eq_div_pow]

theorem Format.ofWord_rsvLo_toNat (w : Word32) : (Format.ofWord w).rsvLo.toNat = w.toNat / 16 % 16 := by
  simp [Format.ofWord, Nat.shiftRight_eq_div_pow]

theorem Format.ofWord_op_toNat (w : Word32) : (Format.ofWord w).op.toNat = w.toNat % 16 := by
  simp [Format.ofWord]

theorem Format.ofWord_rsvHi_eq_zero_iff {w : Word32} : (Format.ofWord w).rsvHi = 0 ↔ w.toNat / 512 = 0 := by
  simp [BitVec.toNat_eq, Format.ofWord_rsvHi_toNat]

theorem Format.ofWord_rsvLo_eq_zero_iff {w : Word32} :
    (Format.ofWord w).rsvLo = 0 ↔ w.toNat / 16 % 16 = 0 := by
  simp [BitVec.toNat_eq, Format.ofWord_rsvLo_toNat]

theorem extractLsb'_ne_zero_of_bit {w : Word32} {start len k : Nat} (hbit : w.getLsbD k = true)
    (hlow : start ≤ k) (hhigh : k < start + len) : w.extractLsb' start len ≠ 0 := by
  intro hzero
  have hset : (w.extractLsb' start len).getLsbD (k - start) = true := by
    rw [BitVec.getLsbD_extractLsb', Nat.add_sub_cancel' hlow, hbit, Bool.and_true, decide_eq_true_eq]
    omega
  simp [hzero] at hset

/-- Bits 31:9 are RSV_HI and bits 7:4 are RSV_LO (R70). -/
theorem Format.ofWord_reserved_of_bit {w : Word32} {k : Nat} (hbit : w.getLsbD k = true)
    (hk : 4 ≤ k ∧ k ≤ 7 ∨ 9 ≤ k ∧ k ≤ 31) :
    (Format.ofWord w).rsvHi ≠ 0 ∨ (Format.ofWord w).rsvLo ≠ 0 := by
  obtain ⟨hlow, hhigh⟩ | ⟨hlow, hhigh⟩ := hk
  · exact .inr (extractLsb'_ne_zero_of_bit hbit hlow (by omega))
  · exact .inl (extractLsb'_ne_zero_of_bit hbit hlow (by omega))

/-- A reserved bit makes the fields illegal before OP and D are looked at (R73). -/
theorem Format.decode_of_reserved {f : Format} (h : f.rsvHi ≠ 0 ∨ f.rsvLo ≠ 0) :
    f.decode = .error .reservedBits := by
  rw [Format.decode, if_pos h]

/-- With clear reserved bits, the fields that decode to a command are that command's: the 32 values of D and OP
against each command (R71, R72). -/
theorem Format.eq_ofInstr_of_clear (i : Instr) : ∀ (d : BitVec 1) (op : BitVec 4),
    Format.decode ⟨0, d, 0, op⟩ = .ok i → ⟨0, d, 0, op⟩ = Format.ofInstr i := by
  cases i <;> decide

/-- An OP outside 1 to 5 names no operation, with either D (R71). -/
theorem Format.decode_reservedOp : ∀ (d : BitVec 1) (op : BitVec 4), op.toNat = 0 ∨ 6 ≤ op.toNat →
    Format.decode ⟨0, d, 0, op⟩ = .error .reservedOp := by
  decide

/-- D = 1 is legal with the two COBS operations only (R72). -/
theorem Format.decode_delimiterBit : ∀ op : BitVec 4, op.toNat = 1 ∨ op.toNat = 4 ∨ op.toNat = 5 →
    Format.decode ⟨0, 1, 0, op⟩ = .error .delimiterBit := by
  decide

theorem Format.eq_ofInstr_of_decode {f : Format} {i : Instr} (h : f.decode = .ok i) :
    f = Format.ofInstr i := by
  by_cases hrsv : f.rsvHi ≠ 0 ∨ f.rsvLo ≠ 0
  · rw [Format.decode_of_reserved hrsv] at h
    cases h
  · obtain ⟨hi, d, lo, op⟩ := f
    obtain ⟨rfl, rfl⟩ : hi = 0 ∧ lo = 0 := by simpa only [not_or, not_not] using hrsv
    exact Format.eq_ofInstr_of_clear i d op h

theorem decode_encode (i : Instr) : decode (encode i) = .ok i := by
  cases i with
  | crc32 => exact Laws.RoundTrip.crc32.2
  | cobsStuff => exact Laws.RoundTrip.cobsStuff.2
  | cobsStuffD => exact Laws.RoundTrip.cobsStuffD.2
  | cobsUnstuff => exact Laws.RoundTrip.cobsUnstuff.2
  | cobsUnstuffD => exact Laws.RoundTrip.cobsUnstuffD.2
  | varintEnc => exact Laws.RoundTrip.varintEnc.2
  | varintDec => exact Laws.RoundTrip.varintDec.2

/-- A word decodes to a command exactly if it is that command's word (R74, R77). -/
theorem decode_eq_ok_iff {w : Word32} {i : Instr} : decode w = .ok i ↔ w = encode i := by
  constructor
  · intro h
    rw [encode, ← Format.eq_ofInstr_of_decode h, Format.toWord_ofWord]
  · rintro rfl
    exact decode_encode i

theorem decode_of_reserved_bit {w : Word32} {k : Nat} (hbit : w.getLsbD k = true)
    (hk : 4 ≤ k ∧ k ≤ 7 ∨ 9 ≤ k ∧ k ≤ 31) : decode w = .error .reservedBits :=
  Format.decode_of_reserved (Format.ofWord_reserved_of_bit hbit hk)

/-- A word with clear reserved bits decodes as its D and OP do (R70, R73). -/
theorem decode_of_fields {w : Word32} (d : BitVec 1) (op : BitVec 4) (hhi : w.toNat / 512 = 0)
    (hlo : w.toNat / 16 % 16 = 0) (hop : w.toNat % 16 = op.toNat) (hd : w.toNat / 256 % 2 = d.toNat) :
    decode w = Format.decode ⟨0, d, 0, op⟩ := by
  rw [← Format.ofWord_op_toNat, ← BitVec.toNat_eq] at hop
  rw [← Format.ofWord_d_toNat, ← BitVec.toNat_eq] at hd
  rw [decode, ← hop, ← hd, ← Format.ofWord_rsvHi_eq_zero_iff.mpr hhi,
    ← Format.ofWord_rsvLo_eq_zero_iff.mpr hlo]

/-- Settles O1: the words are computed from the fields, and the way back is the round trip of each command. -/
theorem commandWordsOfTheTable : Obligations.CommandWordsOfTheTable :=
  ⟨by decide, decode_encode .crc32, decode_encode .cobsStuff, decode_encode .cobsStuffD,
    decode_encode .cobsUnstuff, decode_encode .cobsUnstuffD, decode_encode .varintEnc,
    decode_encode .varintDec⟩

/-- The seven commands, in the order of R77's table. -/
def Instr.all : List Instr :=
  [.crc32, .cobsStuff, .cobsStuffD, .cobsUnstuff, .cobsUnstuffD, .varintEnc, .varintDec]

theorem Instr.mem_all (i : Instr) : i ∈ Instr.all := by
  cases i <;> decide

theorem Instr.all_map_encode : Instr.all.map encode =
    [0x00000001#32, 0x00000002#32, 0x00000102#32, 0x00000003#32, 0x00000103#32, 0x00000004#32,
      0x00000005#32] := by
  decide

theorem exists_decode_eq_ok_iff {w : Word32} : (∃ i, decode w = .ok i) ↔ w ∈ Instr.all.map encode := by
  simp only [decode_eq_ok_iff, List.mem_map, Instr.mem_all, true_and, eq_comm (a := w)]

/-- Settles O3: each clause gives D and OP as constants, except where any OP outside 1 to 5 or either D is
illegal; that no word beyond the seven is legal is `decode_eq_ok_iff`. -/
theorem decodeFollowsTheFieldRules : Obligations.DecodeFollowsTheFieldRules := by
  intro w
  have hop := Format.ofWord_op_toNat w
  have hd := Format.ofWord_d_toNat w
  refine ⟨fun hrsv => ?reserved, fun hhi hlo => ⟨?crc32, ?cobsStuff, ?cobsStuffD, ?cobsUnstuff,
    ?cobsUnstuffD, ?varintEnc, ?varintDec, fun hop_eq hd_eq => ?delimiterBit, fun hop_eq => ?reservedOp⟩,
    ?legalWords⟩
  case reserved =>
    rw [Ne, Ne, ← Format.ofWord_rsvHi_eq_zero_iff, ← Format.ofWord_rsvLo_eq_zero_iff] at hrsv
    exact ⟨_, Format.decode_of_reserved hrsv⟩
  case crc32 => exact decode_of_fields 0 1 hhi hlo
  case cobsStuff => exact decode_of_fields 0 2 hhi hlo
  case cobsStuffD => exact decode_of_fields 1 2 hhi hlo
  case cobsUnstuff => exact decode_of_fields 0 3 hhi hlo
  case cobsUnstuffD => exact decode_of_fields 1 3 hhi hlo
  case varintEnc => exact decode_of_fields 0 4 hhi hlo
  case varintDec => exact decode_of_fields 0 5 hhi hlo
  case delimiterBit =>
    have hdecode := decode_of_fields 1 _ hhi hlo hop.symm hd_eq
    rw [Format.decode_delimiterBit _ (by rwa [hop])] at hdecode
    exact ⟨_, hdecode⟩
  case reservedOp =>
    have hdecode := decode_of_fields _ _ hhi hlo hop.symm hd.symm
    rw [Format.decode_reservedOp _ _ (by rwa [hop])] at hdecode
    exact ⟨_, hdecode⟩
  case legalWords =>
    rw [← Instr.all_map_encode]
    exact exists_decode_eq_ok_iff

end Sys2Proof
end

section
/-! PROOF. The perform step as a whole (30_encoding.md R73, R81, R82; 60_exceptions.md R201, R210): the word in
CMD decides between a command and ILLEGAL_COMMAND, and a command ends or lacks ARG. -/

namespace Sys2Proof.Machine

section

variable {s t : State} {w : Word32} {i : Instr}

theorem perform_of_decode_ok (hw : s.cmd = some w) (hdecode : decode w = .ok i) :
    perform s = exec i s := by
  simp only [perform, performWord, hw, hdecode]

theorem perform_of_decode_error {e : IllegalReason} (hw : s.cmd = some w) (hdecode : decode w = .error e) :
    perform s = .next (raise .illegalCommand s) := by
  simp only [perform, performWord, hw, hdecode]

theorem Completed.agent_eq (h : Completed s t) : t.agent = s.agent := by
  cases h <;> rfl

theorem Completed.turns_eq (h : Completed s t) : t.turns = s.turns := by
  cases h <;> rfl

/-- The codes a command can end in (R200). -/
theorem Completed.status_mem (h : Completed s t) :
    t.status ∈ [.ok, .framingError, .varintTruncated, .varintOverflow] := by
  cases h with
  | out bs => simp
  | res v => simp
  | resPos v p => simp
  | error st hst => simpa using .inr hst

theorem Completed.status_ne_noneYet (h : Completed s t) : t.status ≠ .noneYet := by
  intro hnone
  have hmem := h.status_mem
  rw [hnone] at hmem
  exact absurd hmem (by decide)

/-- MF4 happens for the two commands that take an operand from ARG, and for no other (R210). -/
theorem exec_eq_argBottom_iff :
    exec i s = .fault .argBottom ↔ s.arg = none ∧ (i = .varintEnc ∨ i = .varintDec) := by
  constructor
  · intro hfault
    obtain ⟨t, hnext⟩ | ⟨-, hcause⟩ := exec_total i s
    · rw [hnext] at hfault
      cases hfault
    · exact hcause
  · rintro ⟨harg, rfl | rfl⟩
    · exact (varintNeedsArg s harg).1
    · exact (varintNeedsArg s harg).2

theorem exec_ends_or_lacks_arg (i : Instr) (s : State) :
    (∃ t, exec i s = .next t ∧ t.busy = false ∧ t.status ≠ .noneYet) ∨
      exec i s = .fault .argBottom := by
  obtain ⟨t, hnext⟩ | ⟨hfault, -⟩ := exec_total i s
  · obtain ⟨-, -, -, hbusy⟩ := (exec_next hnext).inputs_eq
    exact .inl ⟨t, hnext, hbusy, (exec_next hnext).status_ne_noneYet⟩
  · exact .inr hfault

theorem withArg_next {k : Word64 → Host.Outcome State Fault Refusal} (h : withArg s k = .next t) :
    ∃ v, s.arg = some v ∧ k v = .next t := by
  cases harg : s.arg with
  | none => rw [withArg_none harg] at h; cases h
  | some v => exact ⟨v, rfl, (withArg_some harg k).symm.trans h⟩

/-- An operation with a byte-sequence output leaves RES and POS at ⊥, and OUT too unless it succeeds (R75). -/
theorem commitOut_outputs {r : Except Status (List Byte)} (herror : ∀ st, r = .error st → st ≠ .ok)
    (h : commitOut r s = .next t) : t.res = none ∧ t.pos = none ∧ (t.status = .ok ↔ t.out ≠ none) := by
  cases r with
  | ok bs => cases h; simp
  | error st => cases h; simpa using herror st rfl

/-- An operation with a value and an offset leaves OUT at ⊥, and RES and POS too unless it succeeds (R75). -/
theorem commitResPos_outputs {r : Except Status (Word64 × Nat)} (herror : ∀ st, r = .error st → st ≠ .ok)
    (h : commitResPos r s = .next t) :
    t.out = none ∧ (t.status = .ok ↔ t.res ≠ none) ∧ (t.status = .ok ↔ t.pos ≠ none) := by
  cases r with
  | ok vp => cases h; simp
  | error st => cases h; simpa using herror st rfl

theorem cobsUnstuff_error_ne_ok {bs : List Byte} (st : Status) (h : cobsUnstuff bs = .error st) :
    st ≠ .ok := by
  rw [cobsUnstuff_error h]
  decide

theorem varintDecode_error_ne_ok {pol : G10Policy} {buf : List Byte} {p : Nat} (st : Status)
    (h : varintDecode pol buf p = .error st) : st ≠ .ok := by
  obtain rfl | rfl := decodeFuel_error h <;> decide

end

/-- Settles O6: a set bit of either range makes its field non-zero. -/
theorem reservedBitsAreIllegal : Obligations.ReservedBitsAreIllegal :=
  fun _ _ _ hw hbit hk => perform_of_decode_error hw (decode_of_reserved_bit hbit hk)

/-- Settles O31: each of the four shapes of a completed command has this frame. -/
theorem execFrame : Obligations.ExecFrame := by
  intro i s t h
  have hcompleted := exec_next h
  obtain ⟨hin, harg, hcmd, hbusy⟩ := hcompleted.inputs_eq
  exact ⟨hcmd, harg, hin, hcompleted.cfg_eq, hcompleted.agent_eq, hcompleted.turns_eq, hbusy,
    hcompleted.status_mem⟩

/-- Settles O32: a command commits its own outputs only, and its error codes are not OK. -/
theorem execOutputs : Obligations.ExecOutputs := by
  intro i s t h
  refine ⟨?crc32, ?encoders, ?unstuff, ?varintDec⟩
  case crc32 =>
    rintro rfl
    cases h
    simp
  case encoders =>
    rintro (rfl | rfl | rfl)
    · cases h; simp
    · cases h; simp
    · obtain ⟨v, -, hnext⟩ := withArg_next h
      cases hnext
      simp
  case unstuff =>
    rintro (rfl | rfl) <;> exact commitOut_outputs cobsUnstuff_error_ne_ok h
  case varintDec =>
    rintro rfl
    obtain ⟨p, -, hnext⟩ := withArg_next h
    exact commitResPos_outputs varintDecode_error_ne_ok hnext

/-- Settles O33: by whether the word in CMD decodes to a command. -/
theorem performEndsOrLacksArg : Obligations.PerformEndsOrLacksArg := by
  intro s hcmd
  obtain ⟨w, hw⟩ := Option.ne_none_iff_exists'.mp hcmd
  rw [hw, Option.some.injEq, Option.some.injEq, ← decode_eq_ok_iff, ← decode_eq_ok_iff]
  cases hdecode : decode w with
  | ok i =>
    rw [perform_of_decode_ok hw hdecode, Except.ok.injEq, Except.ok.injEq]
    exact ⟨exec_ends_or_lacks_arg i s, exec_eq_argBottom_iff⟩
  | error e =>
    rw [perform_of_decode_error hw hdecode]
    exact ⟨.inl ⟨_, rfl, raise_busy _ _, by simp⟩, by simp⟩

end Sys2Proof.Machine
end

section
/-! PROOF. The COBS encoder (40_cobs.md R100 to R105): its output is the one that the run by run relation gives,
and what holds of a stuffed sequence is read off the relation. -/

namespace Sys2Proof.Machine

section

variable {run bs out : List Byte}

theorem codeByte_toNat (hl : run.length < 255) : (codeByte run).toNat = run.length + 1 := by
  rw [codeByte, BitVec.toNat_ofNat, Nat.mod_eq_of_lt (by omega)]

theorem codeByte_ne_zero (hl : run.length < 255) : codeByte run ≠ 0#8 := by
  intro h
  have hn := codeByte_toNat hl
  rw [h, BitVec.toNat_zero] at hn
  omega

/-- A code byte 0xFF stands for a run of 254, so no shorter run has it (R101). -/
theorem codeByte_ne_full (hl : run.length < 254) : codeByte run ≠ 0xFF#8 := by
  intro h
  have hn := codeByte_toNat (run := run) (by omega)
  rw [h, BitVec.toNat_ofNat] at hn
  omega

/-! ### The encoder's three kinds of block, as equations -/

theorem cobsStuff_run_append (rest : List Byte) (hn : ∀ b ∈ run, b ≠ 0#8) (hl : run.length < 254) :
    cobsStuff (run ++ rest) = stuffFrom run rest :=
  stuffFrom_append [] run rest hn (by rwa [List.length_nil, Nat.zero_add])

theorem cobsStuff_last (hn : ∀ b ∈ run, b ≠ 0#8) (hl : run.length < 254) :
    cobsStuff run = codeByte run :: run := by
  rw [← stuffFrom_nil, ← cobsStuff_run_append [] hn hl, List.append_nil]

theorem cobsStuff_zero (rest : List Byte) (hn : ∀ b ∈ run, b ≠ 0#8) (hl : run.length < 254) :
    cobsStuff (run ++ 0#8 :: rest) = codeByte run :: (run ++ cobsStuff rest) := by
  rw [cobsStuff_run_append _ hn hl, stuffFrom_zero, cobsStuff]

theorem cobsStuff_rollover (rest : List Byte) (hn : ∀ b ∈ run, b ≠ 0#8) (hl : run.length = 254) :
    cobsStuff (run ++ rest) = 0xFF#8 :: (run ++ cobsStuff rest) := by
  obtain rfl | ⟨init, b, rfl⟩ := run.eq_nil_or_concat'
  · simp at hl
  · have hinit : init.length = 253 := by simpa using hl
    rw [List.append_assoc, cobsStuff_run_append _ (fun x hx => hn x (by simp [hx])) (by omega),
      List.singleton_append, stuffFrom_rollover rest (hn b (by simp)) hinit, cobsStuff]

/-! ### The encoder and the relation -/

/-- The encoder's loop, with the run gathered so far put back before the input. -/
theorem stuffs_stuffFrom (hn : ∀ b ∈ run, b ≠ 0#8) (hl : run.length < 254) :
    Ref.Stuffs (run ++ bs) (stuffFrom run bs) := by
  induction bs generalizing run with
  | nil =>
    rw [List.append_nil]
    exact .last run hn hl
  | cons b bs ih =>
    have hfresh : Ref.Stuffs bs (stuffFrom [] bs) := ih (run := []) (by simp) (by simp)
    by_cases hb : b = 0#8
    · subst hb
      rw [stuffFrom_zero]
      exact .zero run bs _ hn hl hfresh
    · have hsplit : run ++ b :: bs = (run ++ [b]) ++ bs := by simp
      have hn' : ∀ x ∈ run ++ [b], x ≠ 0#8 := by simpa [or_imp, forall_and] using ⟨hn, hb⟩
      rw [hsplit]
      by_cases hfull : run.length = 253
      · rw [stuffFrom_rollover bs hb hfull]
        exact .rollover _ bs _ hn' (by simp [hfull]) hfresh
      · rw [stuffFrom_literal bs hb hfull]
        exact ih hn' (by simp; omega)

/-- The run by run relation has exactly one output for each input, the encoder's (R100 to R103). -/
theorem stuffs_iff : Ref.Stuffs bs out ↔ out = cobsStuff bs := by
  constructor
  · intro h
    induction h with
    | last run hn hl => exact (cobsStuff_last hn hl).symm
    | zero run rest out hn hl _ ih => rw [cobsStuff_zero rest hn hl, ← ih, codeByte]
    | rollover run rest out hn hl _ ih => rw [cobsStuff_rollover rest hn hl, ← ih]
  · rintro rfl
    exact stuffs_stuffFrom (run := []) (by simp) (by simp)

theorem stuffs_cobsStuff (bs : List Byte) : Ref.Stuffs bs (cobsStuff bs) := stuffs_iff.mpr rfl

/-! ### What holds of every stuffed sequence -/

/-- Every block is a code byte, which is not zero, and a run of non-zero bytes (R102). -/
theorem ne_zero_of_stuffs (h : Ref.Stuffs bs out) : ∀ b ∈ out, b ≠ 0#8 := by
  induction h with
  | last run hn hl =>
    exact List.forall_mem_cons.mpr ⟨codeByte_ne_zero (by omega), hn⟩
  | zero run rest out hn hl _ ih =>
    exact List.forall_mem_cons.mpr ⟨codeByte_ne_zero (by omega), List.forall_mem_append.mpr ⟨hn, ih⟩⟩
  | rollover run rest out hn hl _ ih =>
    exact List.forall_mem_cons.mpr ⟨by decide, List.forall_mem_append.mpr ⟨hn, ih⟩⟩

theorem ne_nil_of_stuffs (h : Ref.Stuffs bs out) : out ≠ [] := by
  cases h <;> exact List.cons_ne_nil _ _

/-! ### The number of rollovers (R104) -/

theorem rollovers_last (hn : ∀ b ∈ run, b ≠ 0#8) : Ref.rollovers run = run.length / 254 := by
  simp [Ref.rollovers, List.splitOn_eq_singleton fun h => hn _ h rfl]

theorem rollovers_zero (rest : List Byte) (hn : ∀ b ∈ run, b ≠ 0#8) :
    Ref.rollovers (run ++ 0#8 :: rest) = run.length / 254 + Ref.rollovers rest := by
  simp [Ref.rollovers, List.splitOn_append_cons_self_of_not_mem fun h => hn _ h rfl]

/-- Non-zero bytes in front join the first piece between zeros. -/
theorem splitOn_zero_append (rest : List Byte) (hn : ∀ b ∈ run, b ≠ 0#8) :
    (run ++ rest).splitOn 0#8 = (rest.splitOn 0#8).modifyHead (run ++ ·) := by
  induction run with
  | nil => exact (congrFun List.modifyHead_id _).symm
  | cons b run ih =>
    obtain ⟨hb, hrun⟩ := List.forall_mem_cons.mp hn
    simp [List.splitOn_cons_eq_if_modifyHead, hb, ih hrun, Function.comp_def]

theorem rollovers_rollover (rest : List Byte) (hn : ∀ b ∈ run, b ≠ 0#8) (hl : run.length = 254) :
    Ref.rollovers (run ++ rest) = 1 + Ref.rollovers rest := by
  obtain ⟨piece, pieces, hsplit⟩ := List.exists_cons_of_ne_nil (List.splitOn_ne_nil 0#8 rest)
  simp only [Ref.rollovers, splitOn_zero_append rest hn, hsplit, List.modifyHead_cons, List.map_cons,
    List.sum_cons, List.length_append, hl]
  omega

/-- One code byte for each zero, one for each rollover, and the trailing one (R104). -/
theorem length_of_stuffs (h : Ref.Stuffs bs out) :
    out.length = bs.length + 1 + Ref.rollovers bs := by
  induction h with
  | last run hn hl =>
    rw [rollovers_last hn, List.length_cons]
    omega
  | zero run rest out hn hl _ ih =>
    simp only [rollovers_zero rest hn, List.length_cons, List.length_append, ih]
    omega
  | rollover run rest out hn hl _ ih =>
    simp only [rollovers_rollover rest hn hl, List.length_cons, List.length_append, ih]
    omega

end

/-- Settles O12: the encoder's output is the only one the relation gives. -/
theorem stuffFollowsTheRuns : Obligations.StuffFollowsTheRuns :=
  fun s => ⟨cobsStuff s.inBuf, rfl, fun _ => stuffs_iff⟩

/-- Settles O13: both commands write the stuffed form of IN, one of them with the delimiter. -/
theorem stuffWithDelimiterAppendsOneZero : Obligations.StuffWithDelimiterAppendsOneZero :=
  fun s => ⟨cobsStuff s.inBuf, stuffs_cobsStuff s.inBuf, rfl, rfl⟩

/-- Settles O14: by the blocks of the stuffed form. -/
theorem stuffedOutputHasNoZero : Obligations.StuffedOutputHasNoZero :=
  fun s => ⟨cobsStuff s.inBuf, ne_zero_of_stuffs (stuffs_cobsStuff s.inBuf), rfl, rfl⟩

/-- Settles O15: the exact length by the blocks of the stuffed form, the upper bound by the encoder's loop. -/
theorem stuffedLength : Obligations.StuffedLength := by
  intro s
  have hlen := length_of_stuffs (stuffs_cobsStuff s.inBuf)
  have hle := cobsStuff_length_le s.inBuf
  refine ⟨cobsStuff s.inBuf, cobsStuffDelim s.inBuf, rfl, rfl, hlen, ?_, ?_, ?_, ?_⟩
  · omega
  · omega
  · omega
  · rw [cobsStuffDelim, List.length_append, List.length_singleton]

end Sys2Proof.Machine
end

section
/-! PROOF. The COBS decoder (40_cobs.md R107 to R113): it computes the block by block relation, and fails
exactly on a code byte that claims more bytes than remain. -/

namespace Sys2Proof.Machine

section

variable {xs ys good lits more out tail : List Byte} {c : Byte} {s : State}

/-- Induction on a decoder's input by its blocks: nothing left, a zero or a code byte that claims too much, or a
complete block before the rest of the input. -/
theorem blockInduction {P : List Byte → Prop} (nil : P []) (zero : ∀ rest, P (0#8 :: rest))
    (short : ∀ c rest, c ≠ 0#8 → rest.length < c.toNat - 1 → P (c :: rest))
    (block : ∀ c lits more, c ≠ 0#8 → lits.length + 1 = c.toNat → P more → P (c :: (lits ++ more)))
    (xs : List Byte) : P xs := by
  induction hn : xs.length using Nat.strong_induction_on generalizing xs with
  | _ n ih =>
    subst hn
    cases xs with
    | nil => exact nil
    | cons c rest =>
      by_cases hc : c = 0#8
      · exact hc ▸ zero rest
      · by_cases hshort : rest.length < c.toNat - 1
        · exact short c rest hc hshort
        · have hpos : 0 < c.toNat := Nat.pos_of_ne_zero fun h => hc (BitVec.eq_of_toNat_eq h)
          have hlits : (rest.take (c.toNat - 1)).length + 1 = c.toNat := by
            rw [List.length_take]
            omega
          have hmore : P (rest.drop (c.toNat - 1)) :=
            ih _ (by simp only [List.length_drop, List.length_cons]; omega) _ rfl
          have hblock := block c _ _ hc hlits hmore
          rwa [List.take_append_drop] at hblock

/-! ### One complete block -/

/-- The bytes a complete block adds to the output: its literals, and a zero if its code byte is not 0xFF and
more input follows (R110). -/
def blockOutput (c : Byte) (lits more : List Byte) : List Byte :=
  lits ++ if c.toNat < 0xFF ∧ more ≠ [] then [0#8] else []

theorem blockOutput_last (c : Byte) (lits : List Byte) : blockOutput c lits [] = lits := by
  simp [blockOutput]

theorem blockOutput_more (lits : List Byte) (hm : c ≠ 0xFF#8) (hr : more ≠ []) :
    blockOutput c lits more = lits ++ [0#8] := by
  have hne : c.toNat ≠ 255 := fun h => hm (BitVec.eq_of_toNat_eq h)
  have hlt := c.isLt
  rw [blockOutput, if_pos ⟨by omega, hr⟩]

theorem blockOutput_full (lits more : List Byte) : blockOutput 0xFF#8 lits more = lits := by
  simp [blockOutput]

theorem cobsUnstuff_block_ok (hc : c ≠ 0#8) (hl : lits.length + 1 = c.toNat)
    (h : cobsUnstuff more = .ok out) :
    cobsUnstuff (c :: (lits ++ more)) = .ok (blockOutput c lits more ++ out) := by
  rw [cobsUnstuff_run hc (by omega), h]
  rfl

theorem cobsUnstuff_block_error {st : Status} (hc : c ≠ 0#8) (hl : lits.length + 1 = c.toNat)
    (h : cobsUnstuff more = .error st) : cobsUnstuff (c :: (lits ++ more)) = .error st := by
  rw [cobsUnstuff_run hc (by omega), h]

/-! ### The decoder and the relation -/

/-- The relation's three kinds of complete block are one, by what follows the block (R110). -/
theorem unstuffs_block (hc : c ≠ 0#8) (hl : lits.length + 1 = c.toNat) (h : Ref.Unstuffs more out) :
    Ref.Unstuffs (c :: (lits ++ more)) (blockOutput c lits more ++ out) := by
  by_cases hr : more = []
  · subst hr
    cases h
    simp only [blockOutput_last, List.append_nil]
    exact .last c lits hc hl
  · by_cases hm : c = 0xFF#8
    · subst hm
      rw [blockOutput_full]
      exact .full lits more out (by simpa using hl) hr h
    · rw [blockOutput_more lits hm hr, List.append_assoc]
      exact .more c lits more out hc hm hl hr h

/-- The decoder succeeds with exactly what the block by block relation gives (R107 to R111). -/
theorem unstuffs_iff : Ref.Unstuffs xs out ↔ cobsUnstuff xs = .ok out := by
  constructor
  · intro h
    induction h with
    | empty => exact cobsUnstuff_nil
    | stop rest => exact cobsUnstuff_zero rest
    | last c lits hc hl =>
      simpa only [blockOutput_last, List.append_nil] using cobsUnstuff_block_ok hc hl cobsUnstuff_nil
    | more c lits rest out hc hm hl hr _ ih =>
      rw [cobsUnstuff_block_ok hc hl ih, blockOutput_more lits hm hr, List.append_assoc,
        List.singleton_append]
    | full lits rest out hl hr _ ih =>
      rw [cobsUnstuff_block_ok (by decide) (by rw [hl]; rfl) ih, blockOutput_full]
  · induction xs using blockInduction generalizing out with
    | nil => rintro ⟨⟩; exact .empty
    | zero rest =>
      intro h
      cases (cobsUnstuff_zero rest).symm.trans h
      exact .stop rest
    | short c rest hc hshort =>
      intro h
      cases (cobsUnstuff_short hc hshort).symm.trans h
    | block c lits more hc hl ih =>
      intro h
      cases hmore : cobsUnstuff more with
      | error st => cases (cobsUnstuff_block_error hc hl hmore).symm.trans h
      | ok tail =>
        cases (cobsUnstuff_block_ok hc hl hmore).symm.trans h
        exact unstuffs_block hc hl (ih hmore)

/-- After complete blocks the decoder fails if the rest of the input makes it fail. -/
theorem cobsUnstuff_blocks_error {st : Status} (h : Ref.Blocks good) (htail : cobsUnstuff tail = .error st) :
    cobsUnstuff (good ++ tail) = .error st := by
  induction h with
  | nil => exact htail
  | cons c lits rest hc hl _ ih =>
    rw [List.cons_append, List.append_assoc]
    exact cobsUnstuff_block_error hc hl ih

/-- The decoder fails exactly on a code byte that claims more bytes than remain (R108). -/
theorem cobsUnstuff_error_iff : cobsUnstuff xs = .error .framingError ↔
    ∃ good c rest, xs = good ++ c :: rest ∧ Ref.Blocks good ∧ c ≠ 0#8 ∧ rest.length < c.toNat - 1 := by
  constructor
  · induction xs using blockInduction with
    | nil => rintro ⟨⟩
    | zero rest =>
      intro h
      cases (cobsUnstuff_zero rest).symm.trans h
    | short c rest hc hshort => exact fun _ => ⟨[], c, rest, rfl, .nil, hc, hshort⟩
    | block c lits more hc hl ih =>
      intro h
      cases hmore : cobsUnstuff more with
      | error st =>
        rw [cobsUnstuff_error hmore] at hmore
        obtain ⟨good, c', rest, rfl, hgood, hc', hshort⟩ := ih hmore
        exact ⟨c :: (lits ++ good), c', rest, by simp, .cons c lits good hc hl hgood, hc', hshort⟩
      | ok out => cases (cobsUnstuff_block_ok hc hl hmore).symm.trans h
  · rintro ⟨good, c, rest, rfl, hgood, hc, hshort⟩
    exact cobsUnstuff_blocks_error hgood (cobsUnstuff_short hc hshort)

/-- After complete blocks a zero in code-byte position ends decoding, and what follows it has no part in the
output (R109). -/
theorem cobsUnstuff_blocks_zero (h : Ref.Blocks good) :
    ∃ out, ∀ rest, cobsUnstuff (good ++ 0#8 :: rest) = .ok out := by
  induction h with
  | nil => exact ⟨[], cobsUnstuff_zero⟩
  | cons c lits good hc hl _ ih =>
    obtain ⟨out, hout⟩ := ih
    refine ⟨blockOutput c lits [0#8] ++ out, fun rest => ?_⟩
    have hzero : blockOutput c lits [0#8] = blockOutput c lits (good ++ 0#8 :: rest) := by
      simp [blockOutput]
    rw [List.cons_append, List.append_assoc, cobsUnstuff_block_ok hc hl (hout rest), hzero]

/-! ### The strip of a trailing delimiter (R113) -/

theorem stripDelimiter_append (xs : List Byte) (hy : ys ≠ []) :
    stripDelimiter (xs ++ ys) = xs ++ stripDelimiter ys := by
  unfold stripDelimiter
  rw [List.getLast?_append_of_ne_nil xs hy]
  split
  · exact List.dropLast_append_of_ne_nil hy
  · rfl

/-- The strip as the first bytes of the input, as R108 speaks of it. -/
theorem stripDelimiter_eq_take (xs : List Byte) : stripDelimiter xs =
    xs.take (if xs.getLast? = some 0#8 then xs.length - 1 else xs.length) := by
  unfold stripDelimiter
  split
  · exact List.dropLast_eq_take
  · rw [List.take_length]

theorem length_stripDelimiter (xs : List Byte) : (stripDelimiter xs).length =
    if xs.getLast? = some 0#8 then xs.length - 1 else xs.length := by
  unfold stripDelimiter
  split
  · exact List.length_dropLast
  · rfl

/-! ### What the commands answer -/

theorem exec_cobsUnstuff (s : State) : exec .cobsUnstuff s = commitOut (cobsUnstuff s.inBuf) s := rfl

theorem exec_cobsUnstuffD (s : State) :
    exec .cobsUnstuffD s = commitOut (cobsUnstuff (stripDelimiter s.inBuf)) s := rfl

theorem commitOut_of_unstuffs (h : Ref.Unstuffs xs out) :
    commitOut (cobsUnstuff xs) s = .next (Ref.wrote out s) := by
  rw [unstuffs_iff.mp h]
  rfl

theorem commitOut_of_not_unstuffs (h : ∀ out, ¬ Ref.Unstuffs xs out) :
    commitOut (cobsUnstuff xs) s = .next (Ref.failed .framingError s) := by
  cases hxs : cobsUnstuff xs with
  | ok out => exact absurd (unstuffs_iff.mpr hxs) (h out)
  | error st =>
    rw [cobsUnstuff_error hxs]
    rfl

theorem commitOut_eq_failed_iff : commitOut (cobsUnstuff xs) s = .next (Ref.failed .framingError s) ↔
    cobsUnstuff xs = .error .framingError := by
  cases hxs : cobsUnstuff xs with
  | ok out => simp [succeedOut, finish, Ref.failed]
  | error st =>
    rw [cobsUnstuff_error hxs]
    exact iff_of_true rfl rfl

end

/-- Settles O16: by whether the relation gives a sequence for IN. -/
theorem unstuffFollowsTheBlocks : Obligations.UnstuffFollowsTheBlocks :=
  fun _ => ⟨fun _ => commitOut_of_unstuffs, commitOut_of_not_unstuffs⟩

/-- Settles O17: the strip leaves the body of a delimited IN, and any other IN as it is. -/
theorem unstuffStripsOneDelimiter : Obligations.UnstuffStripsOneDelimiter := by
  intro s
  refine ⟨fun body hbody => ?delimited, fun hbody => ?undelimited⟩
  case delimited =>
    rw [exec_cobsUnstuffD, hbody, stripDelimiter_append_zero]
    exact ⟨fun _ => commitOut_of_unstuffs, commitOut_of_not_unstuffs⟩
  case undelimited =>
    have hlast : s.inBuf.getLast? ≠ some 0#8 := fun h =>
      (List.getLast?_eq_some_iff.mp h).elim hbody
    rw [exec_cobsUnstuffD, stripDelimiter_of_last_ne hlast, exec_cobsUnstuff]

/-- Settles O18: the decoder's failure, on IN and on the stripped IN. -/
theorem framingErrorExactlyOnAShortRun : Obligations.FramingErrorExactlyOnAShortRun := by
  intro s
  refine ⟨commitOut_eq_failed_iff.trans cobsUnstuff_error_iff, ?_⟩
  rw [exec_cobsUnstuffD, commitOut_eq_failed_iff, cobsUnstuff_error_iff, stripDelimiter_eq_take]
  simp only [exists_and_left, exists_eq_left]

/-- Settles O19: a strip behind the zero changes only bytes that decoding does not reach. -/
theorem unstuffStopsAtAZeroCodeByte : Obligations.UnstuffStopsAtAZeroCodeByte := by
  refine ⟨fun good hgood => ?blocks, fun s rest hin => ⟨?first, ?firstD⟩⟩
  case blocks =>
    obtain ⟨out, hout⟩ := cobsUnstuff_blocks_zero hgood
    refine ⟨out, fun s rest hin => ⟨?_, fun hrest => ?_⟩⟩
    · exact commitOut_of_unstuffs (unstuffs_iff.mpr (hin ▸ hout rest))
    · have hstrip : stripDelimiter s.inBuf = good ++ 0#8 :: stripDelimiter rest := by
        rw [hin, ← List.singleton_append, stripDelimiter_append good (by simp),
          stripDelimiter_append [0#8] hrest, List.singleton_append]
      exact commitOut_of_unstuffs (unstuffs_iff.mpr (hstrip ▸ hout _))
  case first => exact commitOut_of_unstuffs (hin ▸ .stop rest)
  case firstD =>
    rw [exec_cobsUnstuffD, hin]
    apply commitOut_of_unstuffs
    by_cases hrest : rest = []
    · subst hrest
      exact .empty
    · rw [← List.singleton_append, stripDelimiter_append [0#8] hrest]
      exact .stop _

/-- Settles O20: the decoder's bound, on IN and on the stripped IN. -/
theorem unstuffedLength : Obligations.UnstuffedLength := by
  intro s t bs hout
  refine ⟨fun h => cobsUnstuff_length_le (commitOut_out h hout), fun h => ?_⟩
  rw [← length_stripDelimiter]
  exact cobsUnstuff_length_le (commitOut_out h hout)

end Sys2Proof.Machine
end

section
/-! PROOF. The COBS round trips (40_cobs.md R114): the blocks of a stuffed sequence decode to its runs. -/

namespace Sys2Proof.Machine

section

variable {bs out tail zeros : List Byte}

/-- Decoding a stuffed sequence before `tail`: the blocks before the last give their runs back, whatever follows
the last; `hlast` is what its code byte, its run and `tail` decode to. -/
theorem unstuffs_append_of_stuffs (h : Ref.Stuffs bs out)
    (hlast : ∀ run : List Byte, run.length < 254 →
      Ref.Unstuffs (codeByte run :: (run ++ tail)) (run ++ zeros)) :
    Ref.Unstuffs (out ++ tail) (bs ++ zeros) := by
  induction h with
  | last run hn hl => exact hlast run hl
  | zero run rest out hn hl hrest ih =>
    have hne : out ++ tail ≠ [] := List.append_ne_nil_of_left_ne_nil (ne_nil_of_stuffs hrest) tail
    have hmore := Ref.Unstuffs.more (codeByte run) run _ _ (codeByte_ne_zero (by omega))
      (codeByte_ne_full hl) (codeByte_toNat (by omega)).symm hne ih
    simpa [codeByte] using hmore
  | rollover run rest out hn hl hrest ih =>
    have hne : out ++ tail ≠ [] := List.append_ne_nil_of_left_ne_nil (ne_nil_of_stuffs hrest) tail
    simpa using Ref.Unstuffs.full run _ _ hl hne ih

/-- The last block, with nothing behind it, gets no zero (R110). -/
theorem unstuffs_of_stuffs (h : Ref.Stuffs bs out) : Ref.Unstuffs out bs := by
  have hround := unstuffs_append_of_stuffs (tail := []) (zeros := []) h fun run hl => by
    rw [List.append_nil]
    exact .last _ run (codeByte_ne_zero (by omega)) (codeByte_toNat (by omega)).symm
  rwa [List.append_nil, List.append_nil] at hround

/-- A delimiter that is not stripped is input behind the last block, which so gets a zero (R110, R114). -/
theorem unstuffs_delimited_of_stuffs (h : Ref.Stuffs bs out) :
    Ref.Unstuffs (out ++ [0#8]) (bs ++ [0#8]) :=
  unstuffs_append_of_stuffs h fun run hl =>
    .more _ run [0#8] [] (codeByte_ne_zero (by omega)) (codeByte_ne_full hl)
      (codeByte_toNat (by omega)).symm (by simp) (.stop [])

end

/-- Settles O21: the strip leaves the output of cobs.stuff, and without it the delimiter is decoded too. -/
theorem cobsRoundTrip : Obligations.CobsRoundTrip := by
  intro s
  have hstuffs := stuffs_cobsStuff s.inBuf
  refine ⟨cobsStuff s.inBuf, cobsStuffDelim s.inBuf, rfl, rfl, fun r hin => ?plain, fun r hin => ?stripped,
    fun r hin => ?unstripped⟩
  case plain => exact commitOut_of_unstuffs (hin ▸ unstuffs_of_stuffs hstuffs)
  case stripped =>
    rw [exec_cobsUnstuffD, hin, cobsStuffDelim, stripDelimiter_append_zero]
    exact commitOut_of_unstuffs (unstuffs_of_stuffs hstuffs)
  case unstripped => exact commitOut_of_unstuffs (hin ▸ unstuffs_delimited_of_stuffs hstuffs)

end Sys2Proof.Machine
end

section
/-! PROOF. The CRC32 command (41_crc32.md R130, R134 to R137): the check values with their trace, and the
checksum of one byte. -/

namespace Sys2Proof.Machine

/-- CRC32 ends with the checksum of IN in RES, zero-extended (R130, R135). -/
theorem exec_crc32_of_checksum {s : State} {v : Word32} (hv : crc32 s.inBuf = v) :
    exec .crc32 s = .next (Ref.resulted (v.setWidth 64) s) := by
  subst hv
  rfl

/-- The table index of R134, as the XOR of two bytes. -/
theorem crcIndex_eq (c : Word32) (b : Byte) :
    ((c ^^^ b.setWidth 32) &&& 0xFF#32).setWidth 8 = c.setWidth 8 ^^^ b := by
  have hmask : (0xFF#32).setWidth 8 = BitVec.allOnes 8 := by decide
  rw [BitVec.setWidth_and, hmask, BitVec.and_allOnes, BitVec.setWidth_xor,
    BitVec.setWidth_setWidth_of_le b (by decide), BitVec.setWidth_eq]

theorem crcUpdate_eq (c : Word32) (b : Byte) :
    crcUpdate c b = crcT (c.setWidth 8 ^^^ b) ^^^ (c >>> 8) := by
  rw [crcUpdate, crcIndex_eq]

theorem crc32_nil : crc32 [] = 0#32 := by
  decide

/-- The initial value gives the index 0xFF ^ b, and what it shifts down to cancels 24 bits of the final XOR
(R137). -/
theorem crc32_singleton (b : Byte) : crc32 [b] = crcT (0xFF#8 ^^^ b) ^^^ 0xFF000000#32 := by
  have hindex : (0xFFFFFFFF#32).setWidth 8 = 0xFF#8 := by decide
  have hxor : (0xFFFFFFFF#32 >>> 8) ^^^ 0xFFFFFFFF#32 = 0xFF000000#32 := by decide
  rw [crc32, List.foldl_cons, List.foldl_nil, crcUpdate_eq, BitVec.xor_assoc, hindex, hxor]

/-- The column "c after" of R136's trace. -/
theorem crcUpdate_checkInput :
    crcUpdate 0xFFFFFFFF#32 0x31 = 0x7C231048#32 ∧ crcUpdate 0x7C231048#32 0x32 = 0xB0ACBB32#32 ∧
    crcUpdate 0xB0ACBB32#32 0x33 = 0x77B79C2D#32 ∧ crcUpdate 0x77B79C2D#32 0x34 = 0x641C1F5C#32 ∧
    crcUpdate 0x641C1F5C#32 0x35 = 0x340AC5E3#32 ∧ crcUpdate 0x340AC5E3#32 0x36 = 0xF68D2C9E#32 ∧
    crcUpdate 0xF68D2C9E#32 0x37 = 0xAFFC9660#32 ∧ crcUpdate 0xAFFC9660#32 0x38 = 0x651F2550#32 ∧
    crcUpdate 0x651F2550#32 0x39 = 0x340BC6D9#32 := by
  decide

/-- The reference vector "123456789", along its trace (R136). -/
theorem crc32_checkInput :
    crc32 [0x31, 0x32, 0x33, 0x34, 0x35, 0x36, 0x37, 0x38, 0x39] = 0xCBF43926#32 := by
  obtain ⟨h1, h2, h3, h4, h5, h6, h7, h8, h9⟩ := crcUpdate_checkInput
  have hfinal : 0x340BC6D9#32 ^^^ 0xFFFFFFFF#32 = 0xCBF43926#32 := by decide
  simp only [crc32, List.foldl_cons, List.foldl_nil, h1, h2, h3, h4, h5, h6, h7, h8, h9, hfinal]

/-- Settles O10: the checksums of the two inputs of R136, and the nine rows of its trace by evaluation. -/
theorem checksumCheckValues : Obligations.ChecksumCheckValues := by
  refine ⟨fun s hin => ?checkInput, fun s hin => ?empty, ?trace⟩
  case checkInput => exact exec_crc32_of_checksum (hin ▸ crc32_checkInput)
  case empty => exact exec_crc32_of_checksum (hin ▸ crc32_nil)
  case trace => decide

/-- Settles O11: IN holds the one byte. -/
theorem checksumOfOneByte : Obligations.ChecksumOfOneByte :=
  fun _ b hin => exec_crc32_of_checksum (hin ▸ crc32_singleton b)

end Sys2Proof.Machine
end

section
/-! PROOF. The varint encoder (42_varint.md R150 to R152): its output as a number, its shape, and from these two
the bytes and the length. -/

namespace Sys2Proof.Machine

section

variable {xs cont : List Byte} {b last : Byte} {v : Word64} {s : State}

/-! ### The number that a byte sequence stands for -/

theorem toNat_of_more (h : Ref.more b) : b.toNat = b.toNat % 128 + 128 := by
  have hlt := b.isLt
  unfold Ref.more at h
  omega

theorem toNat_of_not_more (h : ¬ Ref.more b) : b.toNat = b.toNat % 128 := by
  unfold Ref.more at h
  omega

theorem value_singleton (b : Byte) : Ref.value [b] = b.toNat % 128 := by
  simp [Ref.value]

theorem two_pow_seven_mul_succ (n : Nat) : 2 ^ (7 * (n + 1)) = 128 * 2 ^ (7 * n) := by
  ring

theorem value_append (xs ys : List Byte) :
    Ref.value (xs ++ ys) = Ref.value xs + 2 ^ (7 * xs.length) * Ref.value ys := by
  induction xs with
  | nil => simp [Ref.value]
  | cons b xs ih =>
    rw [List.cons_append, Ref.value, Ref.value, List.length_cons, ih, two_pow_seven_mul_succ]
    ring

theorem value_lt (xs : List Byte) : Ref.value xs < 2 ^ (7 * xs.length) := by
  induction xs with
  | nil => simp [Ref.value]
  | cons b xs ih =>
    rw [Ref.value, List.length_cons, two_pow_seven_mul_succ]
    omega

/-- The last byte holds the top group. -/
theorem value_append_last (hlast : ¬ Ref.more last) :
    Ref.value (cont ++ [last]) = Ref.value cont + 2 ^ (7 * cont.length) * last.toNat := by
  rw [value_append, value_singleton, ← toNat_of_not_more hlast]

/-- Byte `k` holds bits 7k+6..7k of the number (R151). -/
theorem value_group {k : Nat} (h : xs[k]? = some b) :
    Ref.value xs / 2 ^ (7 * k) % 128 = b.toNat % 128 := by
  induction xs generalizing k with
  | nil => cases h
  | cons c xs ih =>
    cases k with
    | zero =>
      cases h
      rw [Ref.value]
      omega
    | succ k =>
      have hdiv : Ref.value (c :: xs) / 128 = Ref.value xs := by
        rw [Ref.value]
        omega
      rw [two_pow_seven_mul_succ, ← Nat.div_div_eq_div_mul, hdiv]
      exact ih h

/-! ### The encoder's rounds, in numbers -/

theorem group_toNat (v : Word64) : ((v &&& 0x7F#64).setWidth 8).toNat = v.toNat % 128 := by
  rw [BitVec.toNat_setWidth, BitVec.toNat_and]
  have hmask : v.toNat &&& (0x7F#64).toNat = v.toNat % 2 ^ 7 := Nat.and_two_pow_sub_one_eq_mod v.toNat 7
  omega

theorem group_or_toNat (v : Word64) :
    ((v &&& 0x7F#64).setWidth 8 ||| 0x80#8).toNat = v.toNat % 128 + 128 := by
  have hor := Nat.two_pow_add_eq_or_of_lt (i := 7) (b := v.toNat % 128) (Nat.mod_lt _ (by decide)) 1
  rw [BitVec.toNat_or, group_toNat, Nat.or_comm]
  exact hor.symm.trans (Nat.add_comm _ _)

theorem shift_toNat (v : Word64) : (v >>> 7).toNat = v.toNat / 128 := by
  rw [BitVec.toNat_ushiftRight, Nat.shiftRight_eq_div_pow]

/-- One round: the last group of a value below 128, or a group with the continuation bit before the encoding
of the rest. -/
theorem encodeFuel_cases (n : Nat) (v : Word64) :
    (∃ b, encodeFuel (n + 1) v = [b] ∧ b.toNat = v.toNat ∧ v.toNat < 128) ∨
    ∃ b, encodeFuel (n + 1) v = b :: encodeFuel n (v >>> 7) ∧ b.toNat = v.toNat % 128 + 128 ∧
      128 ≤ v.toNat := by
  have hshift := shift_toNat v
  by_cases h : v >>> 7 = 0#64
  · rw [h, BitVec.toNat_zero] at hshift
    exact .inl ⟨_, encodeFuel_last n h, by rw [group_toNat]; omega, by omega⟩
  · have hne : (v >>> 7).toNat ≠ 0 := fun h0 => h (BitVec.eq_of_toNat_eq h0)
    exact .inr ⟨_, encodeFuel_more n h, group_or_toNat v, by omega⟩

/-- With a round for each group of `v`, the encoding is `v` in groups of seven bits. -/
theorem value_encodeFuel {n : Nat} (h : v.toNat < 2 ^ (7 * n)) : Ref.value (encodeFuel n v) = v.toNat := by
  induction n generalizing v with
  | zero => rw [encodeFuel, Ref.value]; omega
  | succ n ih =>
    obtain ⟨b, henc, hb, hlt⟩ | ⟨b, henc, hb, -⟩ := encodeFuel_cases n v
    · rw [henc, value_singleton]
      omega
    · have hrest : (v >>> 7).toNat < 2 ^ (7 * n) := by
        rw [two_pow_seven_mul_succ] at h
        rw [shift_toNat]
        omega
      rw [henc, Ref.value, ih hrest, shift_toNat]
      omega

/-- With a round for each group of `v`, only the last byte lacks the continuation bit, and it is zero only if it
is the first one too (R151). -/
theorem encodeFuel_eq_append {n : Nat} (h : v.toNat < 2 ^ (7 * (n + 1))) :
    ∃ cont last, encodeFuel (n + 1) v = cont ++ [last] ∧ (∀ b ∈ cont, Ref.more b) ∧ ¬ Ref.more last ∧
      (last = 0#8 → cont = []) := by
  induction n generalizing v with
  | zero =>
    obtain ⟨b, henc, hb, hlt⟩ | ⟨b, -, -, hge⟩ := encodeFuel_cases 0 v
    · exact ⟨[], b, henc, by simp, by unfold Ref.more; omega, fun _ => rfl⟩
    · omega
  | succ n ih =>
    obtain ⟨b, henc, hb, hlt⟩ | ⟨b, henc, hb, hge⟩ := encodeFuel_cases (n + 1) v
    · exact ⟨[], b, henc, by simp, by unfold Ref.more; omega, fun _ => rfl⟩
    · have hshift := shift_toNat v
      have hrest : (v >>> 7).toNat < 2 ^ (7 * (n + 1)) := by
        rw [two_pow_seven_mul_succ] at h
        omega
      obtain ⟨cont, last, htail, hcont, hlast, hzero⟩ := ih hrest
      refine ⟨b :: cont, last, by rw [henc, htail, List.cons_append], ?_, hlast, fun h0 => ?_⟩
      · exact List.forall_mem_cons.mpr ⟨by unfold Ref.more; omega, hcont⟩
      · have hvalue := value_encodeFuel hrest
        rw [htail, hzero h0, h0, List.nil_append, value_singleton, BitVec.toNat_zero] at hvalue
        omega

/-! ### The encoding of a 64-bit value -/

theorem toNat_lt_ten_groups (v : Word64) : v.toNat < 2 ^ (7 * 10) := v.isLt.trans (by decide)

theorem value_varintEncode (v : Word64) : Ref.value (varintEncode v) = v.toNat :=
  value_encodeFuel (toNat_lt_ten_groups v)

theorem varintEncode_eq_append (v : Word64) :
    ∃ cont last, varintEncode v = cont ++ [last] ∧ (∀ b ∈ cont, Ref.more b) ∧ ¬ Ref.more last ∧
      (last = 0#8 → cont = []) :=
  encodeFuel_eq_append (toNat_lt_ten_groups v)

theorem varintEncode_ne_nil (v : Word64) : varintEncode v ≠ [] := by
  obtain ⟨cont, last, henc, -⟩ := varintEncode_eq_append v
  simp [henc]

theorem toNat_lt_two_pow_varintEncode (v : Word64) : v.toNat < 2 ^ (7 * (varintEncode v).length) := by
  rw [← value_varintEncode v]
  exact value_lt _

theorem varintEncode_getElem?_toNat {k : Nat} (h : (varintEncode v)[k]? = some b) :
    b.toNat = v.toNat / 2 ^ (7 * k) % 128 + (if k + 1 < (varintEncode v).length then 128 else 0) := by
  rw [← value_varintEncode v, value_group h]
  obtain ⟨cont, last, henc, hcont, hlast, -⟩ := varintEncode_eq_append v
  rw [henc] at h ⊢
  rw [List.length_append, List.length_singleton]
  by_cases hk : k < cont.length
  · rw [List.getElem?_append_left hk] at h
    rw [if_pos (by omega)]
    exact toNat_of_more (hcont b (List.mem_of_getElem? h))
  · rw [List.getElem?_append_right (by omega), List.getElem?_singleton] at h
    split at h
    · cases h
      rw [if_neg (by omega)]
      exact toNat_of_not_more hlast
    · cases h

theorem varintEncode_zero : varintEncode 0#64 = [0x00#8] := by
  decide

/-- The last byte is not zero, so the encoding is the shortest one (R151). -/
theorem varintEncode_last_ne_zero (hv : v ≠ 0#64) : (varintEncode v).getLast? ≠ some 0#8 := by
  obtain ⟨cont, last, henc, -, -, hzero⟩ := varintEncode_eq_append v
  rw [henc, List.getLast?_concat]
  rintro ⟨⟩
  have hvalue := value_varintEncode v
  rw [henc, hzero rfl] at hvalue
  exact hv (BitVec.eq_of_toNat_eq hvalue.symm)

/-- A last byte that is not zero is a bit of `v` above all groups before it. -/
theorem two_pow_varintEncode_le_toNat (hv : v ≠ 0#64) : 2 ^ (7 * ((varintEncode v).length - 1)) ≤ v.toNat := by
  have hne := varintEncode_last_ne_zero hv
  have hvalue := value_varintEncode v
  obtain ⟨cont, last, henc, -, hlast, -⟩ := varintEncode_eq_append v
  rw [henc, List.getLast?_concat] at hne
  have hpos : 0 < last.toNat := Nat.pos_of_ne_zero fun h0 => hne (congrArg some (BitVec.eq_of_toNat_eq h0))
  rw [henc, value_append_last hlast] at hvalue
  rw [henc, List.length_append, List.length_singleton, Nat.add_sub_cancel]
  calc 2 ^ (7 * cont.length)
    _ ≤ 2 ^ (7 * cont.length) * last.toNat := Nat.le_mul_of_pos_right _ hpos
    _ ≤ v.toNat := by omega

/-- The length of an encoding (R152). -/
theorem length_varintEncode (v : Word64) :
    (varintEncode v).length = max 1 ((Nat.size v.toNat + 6) / 7) := by
  by_cases hv : v = 0#64
  · subst hv
    simp [varintEncode_zero]
  · have hupper := Nat.size_le.mpr (toNat_lt_two_pow_varintEncode v)
    have hlower := Nat.lt_size.mpr (two_pow_varintEncode_le_toNat hv)
    omega

/-- The bands of R152, from the second on. -/
theorem length_varintEncode_eq_iff {n : Nat} (hn : 2 ≤ n) :
    (varintEncode v).length = n ↔ 2 ^ (7 * (n - 1)) ≤ v.toNat ∧ v.toNat < 2 ^ (7 * n) := by
  rw [length_varintEncode, ← Nat.lt_size, ← Nat.size_le]
  omega

theorem length_varintEncode_eq_one_iff : (varintEncode v).length = 1 ↔ v.toNat < 128 := by
  have hsize : Nat.size v.toNat ≤ 7 ↔ v.toNat < 2 ^ 7 := Nat.size_le
  rw [length_varintEncode]
  omega

/-- Nine groups leave bit 63 of a 64-bit value, and a tenth byte only follows them if it is set (R152). -/
theorem varintEncode_tenth (h : (varintEncode v)[9]? = some b) : b = 0x01#8 := by
  have hlong : 9 < (varintEncode v).length := (List.getElem?_eq_some_iff.mp h).1
  have hlen : (varintEncode v).length = 10 := le_antisymm (varintEncode_length_le v) hlong
  have hband := (length_varintEncode_eq_iff (by decide)).mp hlen
  have hb := varintEncode_getElem?_toNat h
  rw [hlen, if_neg (by decide)] at hb
  have hlt := v.isLt
  apply BitVec.eq_of_toNat_eq
  rw [BitVec.toNat_ofNat]
  omega

theorem exec_varintEnc (harg : s.arg = some v) :
    exec .varintEnc s = .next (Ref.wrote (varintEncode v) s) := withArg_some harg _

end

/-- Settles O22: the number the encoding stands for gives its groups, its shape the continuation bits. -/
theorem varintEncGroups : Obligations.VarintEncGroups :=
  fun _ v harg => ⟨varintEncode v, exec_varintEnc harg, varintEncode_ne_nil v, toNat_lt_two_pow_varintEncode v,
    fun _ _ => varintEncode_getElem?_toNat, varintEncode_last_ne_zero⟩

/-- Settles O23: the bands are the length formula, read through the bit length of the value. -/
theorem varintEncLength : Obligations.VarintEncLength := by
  intro s v harg
  refine ⟨varintEncode v, exec_varintEnc harg, length_varintEncode v, length_varintEncode_eq_one_iff,
    fun _ => length_varintEncode_eq_iff, varintEncode_length_le v, fun _ => varintEncode_tenth, ?_, ?_, ?_, ?_,
    ?_⟩
  · rintro rfl; exact varintEncode_zero
  · rintro rfl; decide
  · rintro rfl; decide
  · rintro rfl; decide
  · rintro rfl; decide

end Sys2Proof.Machine
end

section
/-! PROOF. The varint decoder (42_varint.md R153 to R157): what it answers to continuation bytes at the start
offset and a terminating byte, a tenth continuation byte or the end of IN behind them. -/

namespace Sys2Proof.Machine

section

variable {pol : G10Policy} {buf cont rest after before : List Byte} {b last : Byte} {n p shift k : Nat}
  {acc v w : Word64} {st : Status} {s : State}

/-! ### The input from an index on -/

theorem inRead_of_drop_nil (h : buf.drop p = []) : inRead buf p = none :=
  List.getElem?_eq_none (List.drop_eq_nil_iff.mp h)

theorem inRead_of_drop_cons (h : buf.drop p = b :: rest) : inRead buf p = some b := by
  have hhead : (buf.drop p)[0]? = buf[p]? := List.getElem?_drop
  rw [inRead, ← hhead, h, List.getElem?_cons_zero]

theorem drop_succ_of_drop_cons (h : buf.drop p = b :: rest) : buf.drop (p + 1) = rest := by
  rw [← List.drop_drop, h, List.drop_one, List.tail_cons]

theorem drop_of_append (hp : p = before.length) (h : buf = before ++ cont ++ rest) :
    buf.drop p = cont ++ rest := by
  subst hp h
  rw [List.append_assoc, List.drop_left]

theorem continues_of_more (h : Ref.more b) : continues b = true := (continues_iff b).mpr h

theorem continues_of_not_more (h : ¬ Ref.more b) : continues b = false :=
  Bool.eq_false_iff.mpr fun hb => h ((continues_iff b).mp hb)

/-! ### The accumulator -/

theorem ofNat_value_singleton (b : Byte) : BitVec.ofNat 64 (Ref.value [b]) = (groupOf b).setWidth 64 := by
  rw [value_singleton, ← groupOf_toNat, BitVec.ofNat_toNat]

theorem ofNat_two_pow_mul (n k : Nat) : BitVec.ofNat 64 (2 ^ k * n) = BitVec.ofNat 64 n <<< k := by
  apply BitVec.eq_of_toNat_eq
  rw [BitVec.toNat_shiftLeft, BitVec.toNat_ofNat, BitVec.toNat_ofNat, Nat.shiftLeft_eq, Nat.mod_mul_mod,
    Nat.mul_comm]

/-- The groups of two parts do not overlap, so `|` puts them together (R153). -/
theorem ofNat_value_append (xs ys : List Byte) : BitVec.ofNat 64 (Ref.value (xs ++ ys)) =
    BitVec.ofNat 64 (Ref.value xs) ||| BitVec.ofNat 64 (Ref.value ys) <<< (7 * xs.length) := by
  rw [value_append, Nat.add_comm, Nat.two_pow_add_eq_or_of_lt (value_lt xs), BitVec.ofNat_or, BitVec.or_comm,
    ofNat_two_pow_mul]

/-- A round's update of the accumulator, and then that of the bytes after it, as one. -/
theorem acc_or_value_cons (acc : Word64) (b : Byte) (xs : List Byte) (shift : Nat) :
    acc ||| (groupOf b).setWidth 64 <<< shift ||| BitVec.ofNat 64 (Ref.value xs) <<< (shift + 7) =
      acc ||| BitVec.ofNat 64 (Ref.value (b :: xs)) <<< shift := by
  rw [← List.singleton_append, ofNat_value_append, ofNat_value_singleton, BitVec.shiftLeft_or_distrib,
    ← BitVec.shiftLeft_add, BitVec.or_assoc, Nat.add_comm]
  rfl

/-! ### The rounds -/

/-- Continuation bytes up to the ninth add their groups to the accumulator. -/
theorem decodeFuel_continuations (h : buf.drop p = cont ++ rest) (hcont : ∀ b ∈ cont, Ref.more b)
    (hs : shift + 7 * cont.length ≤ 63) :
    decodeFuel pol buf (cont.length + n) p shift acc =
      decodeFuel pol buf n (p + cont.length) (shift + 7 * cont.length)
        (acc ||| BitVec.ofNat 64 (Ref.value cont) <<< shift) := by
  induction cont generalizing p shift acc with
  | nil => simp [Ref.value]
  | cons b cont ih =>
    obtain ⟨hb, hcont⟩ := List.forall_mem_cons.mp hcont
    rw [List.length_cons] at hs ⊢
    rw [Nat.add_right_comm, decodeFuel_more (inRead_of_drop_cons h) (continues_of_more hb) (by omega),
      ih (drop_succ_of_drop_cons h) hcont (by omega), acc_or_value_cons]
    congr 1 <;> omega

theorem varintDecode_continuations (h : buf.drop p = cont ++ rest) (hcont : ∀ b ∈ cont, Ref.more b)
    (hlen : cont.length ≤ 9) :
    varintDecode pol buf p = decodeFuel pol buf (9 - cont.length + 1) (p + cont.length) (7 * cont.length)
      (BitVec.ofNat 64 (Ref.value cont)) := by
  have hfuel : 10 = cont.length + (9 - cont.length + 1) := by omega
  rw [varintDecode, hfuel, decodeFuel_continuations h hcont (by omega), Nat.zero_add, BitVec.shiftLeft_zero,
    BitVec.ofNat_eq_ofNat, BitVec.zero_or]

theorem groupOf_gt_one_iff (hlast : ¬ Ref.more last) : groupOf last > 1#8 ↔ 2 ≤ last.toNat := by
  rw [gt_iff_lt, BitVec.lt_def, groupOf_toNat, ← toNat_of_not_more hlast]
  rfl

/-- A varint with its terminating byte: its value in 64 bits and the index past it, unless the tenth group is
above 1 under REJECT (R153, R156, R157). -/
theorem varintDecode_terminated (h : buf.drop p = cont ++ last :: after) (hcont : ∀ b ∈ cont, Ref.more b)
    (hlen : cont.length ≤ 9) (hlast : ¬ Ref.more last) :
    varintDecode pol buf p =
      if cont.length = 9 ∧ 2 ≤ last.toNat ∧ pol = .reject then .error .varintOverflow
      else .ok (BitVec.ofNat 64 (Ref.value (cont ++ [last])), p + cont.length + 1) := by
  have hrest : buf.drop (p + cont.length) = last :: after := by
    rw [← List.drop_drop, h, List.drop_left]
  have hshift : 7 * cont.length = 63 ↔ cont.length = 9 := by omega
  rw [varintDecode_continuations h hcont hlen,
    decodeFuel_last (inRead_of_drop_cons hrest) (continues_of_not_more hlast), ofNat_value_append,
    ofNat_value_singleton]
  simp only [groupOf_gt_one_iff hlast, hshift]

/-- A varint decodes to its value in 64 bits if its tenth group, where it has one, is 0 or 1 or the policy is
TRUNCATE (R156). -/
theorem varintDecode_ok (h : buf.drop p = cont ++ last :: after) (hcont : ∀ b ∈ cont, Ref.more b)
    (hlen : cont.length ≤ 9) (hlast : ¬ Ref.more last)
    (hok : cont.length = 9 → 2 ≤ last.toNat → pol = .truncate) :
    varintDecode pol buf p =
      .ok (BitVec.ofNat 64 (Ref.value (cont ++ [last])), p + cont.length + 1) := by
  rw [varintDecode_terminated h hcont hlen hlast, if_neg]
  rintro ⟨hnine, htwo, hreject⟩
  cases hreject.symm.trans (hok hnine htwo)

/-- The tenth continuation byte is an overflow, and no byte after it is read (R155). -/
theorem varintDecode_ten_continuations (h : buf.drop p = cont ++ rest) (hcont : ∀ b ∈ cont, Ref.more b)
    (hlen : cont.length = 10) : varintDecode pol buf p = .error .varintOverflow := by
  obtain rfl | ⟨nine, tenth, rfl⟩ := cont.eq_nil_or_concat'
  · cases hlen
  · have hnine : nine.length = 9 := by simpa using hlen
    rw [List.append_assoc] at h
    obtain ⟨hcont, htenth⟩ := List.forall_mem_append.mp hcont
    have hrest : buf.drop (p + nine.length) = tenth :: rest := by
      rw [← List.drop_drop, h, List.drop_left]
      rfl
    rw [varintDecode_continuations h hcont hnine.le]
    exact decodeFuel_overflow (inRead_of_drop_cons hrest) (continues_of_more (htenth tenth (by simp))) (by omega)

/-- The loop needs a byte that is not there exactly if it runs through the rest of IN, before its shift passes
63 (R154). -/
theorem decodeFuel_truncated_iff (hs : shift + 7 * n = 70) :
    decodeFuel pol buf n p shift acc = .error .varintTruncated ↔
      (∀ b ∈ buf.drop p, Ref.more b) ∧ (buf.drop p).length < n := by
  induction n generalizing p shift acc with
  | zero => simp [decodeFuel]
  | succ n ih =>
    cases hdrop : buf.drop p with
    | nil => simp [decodeFuel_none (inRead_of_drop_nil hdrop)]
    | cons b rest =>
      have hread := inRead_of_drop_cons hdrop
      rw [List.forall_mem_cons, List.length_cons, Nat.add_lt_add_iff_right]
      by_cases hb : Ref.more b
      · cases n with
        | zero =>
          rw [decodeFuel_overflow hread (continues_of_more hb) (by omega)]
          simp
        | succ n =>
          rw [decodeFuel_more hread (continues_of_more hb) (by omega), ih (by omega),
            drop_succ_of_drop_cons hdrop]
          simp only [hb, true_and]
      · rw [decodeFuel_last hread (continues_of_not_more hb)]
        simp only [hb, false_and, iff_false]
        split <;> simp

/-! ### What the command answers -/

theorem exec_varintDec (harg : s.arg = some w) :
    exec .varintDec s = commitResPos (varintDecode s.cfg.g10 s.inBuf w.toNat) s := withArg_some harg _

theorem exec_varintDec_ok (harg : s.arg = some w)
    (h : varintDecode s.cfg.g10 s.inBuf w.toNat = .ok (v, k)) :
    ∃ q, exec .varintDec s = .next (Ref.decoded v q s) ∧ (k < 2 ^ 64 → q.toNat = k) := by
  refine ⟨lenWord k, ?_, lenWord_toNat⟩
  rw [exec_varintDec harg, h]
  rfl

theorem exec_varintDec_eq_failed_iff (harg : s.arg = some w) (hst : st ≠ .ok) :
    exec .varintDec s = .next (Ref.failed st s) ↔ varintDecode s.cfg.g10 s.inBuf w.toNat = .error st := by
  rw [exec_varintDec harg]
  cases varintDecode s.cfg.g10 s.inBuf w.toNat with
  | ok vp => simp [commitResPos, succeedResPos, finish, Ref.failed, hst.symm]
  | error st' => simp [commitResPos, raise, finish, clearOutputs, Ref.failed]

end

/-- Settles O26: the tenth group counts 2^63, and in 64 bits it counts modulo 2. -/
theorem varintTenthGroup : Obligations.VarintTenthGroup := by
  refine ⟨rfl, fun s p before cont after last harg hp hin hcont hnine hlast => ?_⟩
  have hdrop := drop_of_append hp hin
  have hvalue : Ref.value (cont ++ [last]) = Ref.value cont + last.toNat * 2 ^ 63 := by
    rw [value_append_last hlast, hnine, Nat.mul_comm]
  have hlt : Ref.value cont < 2 ^ 63 := by
    have := value_lt cont
    rwa [hnine] at this
  have hend : p.toNat + cont.length + 1 = before.length + 10 := by omega
  refine ⟨fun hone => ⟨by omega, ?exact⟩, fun htwo hreject => ?reject, fun _ htrunc => ?truncate⟩
  case exact =>
    have hdec := varintDecode_ok (pol := s.cfg.g10) hdrop hcont hnine.le hlast (by omega)
    rw [hvalue, hend] at hdec
    exact exec_varintDec_ok harg hdec
  case reject =>
    rw [exec_varintDec_eq_failed_iff harg (by decide),
      varintDecode_terminated hdrop hcont hnine.le hlast, if_pos ⟨hnine, htwo, hreject⟩]
  case truncate =>
    have hdec := varintDecode_ok hdrop hcont hnine.le hlast fun _ _ => htrunc
    have hlow : BitVec.ofNat 64 (Ref.value cont + last.toNat * 2 ^ 63) =
        BitVec.ofNat 64 (Ref.value cont + last.toNat % 2 * 2 ^ 63) := by
      apply BitVec.eq_of_toNat_eq
      rw [BitVec.toNat_ofNat, BitVec.toNat_ofNat]
      omega
    rw [hvalue, hend, hlow] at hdec
    exact exec_varintDec_ok harg hdec

/-- Settles O27: the tenth byte, after nine continuation bytes. -/
theorem varintOverflowOnTenContinuations : Obligations.VarintOverflowOnTenContinuations := by
  intro s p before cont after harg hp hcont
  refine ⟨fun hten hin => ?_, fun hnine hin => ?_⟩
  · rw [exec_varintDec_eq_failed_iff harg (by decide)]
    exact varintDecode_ten_continuations (drop_of_append hp hin) hcont hten
  · have hlast : ¬ Ref.more 0x01#8 := by unfold Ref.more; decide
    have hdec := varintDecode_ok (pol := s.cfg.g10) (drop_of_append hp hin) hcont hnine.le hlast
      fun _ => (absurd · (by decide))
    obtain ⟨q, hexec, -⟩ := exec_varintDec_ok harg hdec
    exact ⟨_, q, hexec⟩

/-- Settles O28: the loop with its ten rounds, from the start offset. -/
theorem varintTruncatedExactly : Obligations.VarintTruncatedExactly := by
  intro s p harg
  rw [exec_varintDec_eq_failed_iff harg (by decide), varintDecode, decodeFuel_truncated_iff (by decide),
    Nat.lt_succ_iff]

end Sys2Proof.Machine
end

section
/-! PROOF. The varint round trip (42_varint.md R159): an encoding is one varint, its tenth byte is 0x01 at most,
and its value is the value encoded. -/

namespace Sys2Proof.Machine

/-- An encoding at any index decodes to its value, whatever follows it and under both policies. -/
theorem varintDecode_varintEncode {pol : G10Policy} {buf after : List Byte} {p : Nat} {v : Word64}
    (h : buf.drop p = varintEncode v ++ after) :
    varintDecode pol buf p = .ok (v, p + (varintEncode v).length) := by
  obtain ⟨cont, last, henc, hcont, hlast, -⟩ := varintEncode_eq_append v
  have hlen : (varintEncode v).length = cont.length + 1 := by
    rw [henc, List.length_append, List.length_singleton]
  have hnine : cont.length ≤ 9 := by
    have := varintEncode_length_le v
    omega
  have htenth (hc : cont.length = 9) : last = 0x01#8 :=
    varintEncode_tenth (by rw [henc, ← hc, List.getElem?_concat_length])
  have hvalue : BitVec.ofNat 64 (Ref.value (cont ++ [last])) = v := by
    rw [← henc, value_varintEncode, BitVec.ofNat_toNat, BitVec.setWidth_eq]
  rw [henc, List.append_assoc, List.singleton_append] at h
  rw [varintDecode_ok h hcont hnine hlast fun hc htwo => ?_, hvalue, hlen, Nat.add_assoc]
  rw [htenth hc] at htwo
  exact absurd htwo (by decide)

/-- Settles O29: IN from the start offset on is the encoding and what follows it. -/
theorem varintRoundTrip : Obligations.VarintRoundTrip := by
  intro s v harg
  refine ⟨varintEncode v, exec_varintEnc harg, fun r p before after hargR hp hin => ?_⟩
  rw [← hp]
  exact exec_varintDec_ok hargR (varintDecode_varintEncode (drop_of_append hp hin))

end Sys2Proof.Machine
end

section
/-! PROOF. How an operation fails (60_exceptions.md R201, R205, R210): the STATUS code is its only trace, and a word
that is no command fails with ILLEGAL_COMMAND. -/

namespace Sys2Proof.Machine

section

variable {s t : State} {w : Word32}

/-- Of the four shapes of a completed command, only the error entry leaves a STATUS other than OK. -/
theorem Completed.eq_failed_of_not_ok (h : Completed s t) (hstatus : t.status ≠ .ok) :
    t = Ref.failed t.status s := by
  cases h with
  | out bs => exact absurd rfl hstatus
  | res v => exact absurd rfl hstatus
  | resPos v p => exact absurd rfl hstatus
  | error st hst => rfl

theorem decode_error_of_ne_encode (hw : ∀ i, w ≠ encode i) : ∃ e, decode w = .error e := by
  cases hdecode : decode w with
  | ok i => exact absurd (decode_eq_ok_iff.mp hdecode) (hw i)
  | error e => exact ⟨e, rfl⟩

end

/-- Settles O30: a perform step ends as a completed command or as an illegal word does. -/
theorem failureLeavesOnlyStatus : Obligations.FailureLeavesOnlyStatus := by
  intro s t h hstatus
  obtain hcompleted | rfl := perform_next h
  · exact hcompleted.eq_failed_of_not_ok hstatus
  · rfl

/-- Settles O5: the word has no decoding; afterwards BUSY = 0, and a read of CMD is MF3 (R210). -/
theorem illegalWordCompletesWithIllegalCommand : Obligations.IllegalWordCompletesWithIllegalCommand := by
  intro s w hcmd hw
  obtain ⟨e, hdecode⟩ := decode_error_of_ne_encode hw
  exact ⟨perform_of_decode_error hcmd hdecode, rfl, hcmd, hostAct_read_of_error rfl rfl⟩

end Sys2Proof.Machine
end

section
/-! PROOF. The CRC table and the bit-serial checksum (41_crc32.md R132, R134, R138): a round is linear over XOR, so the
eight rounds of a byte are a table look-up for the low byte and a shift of the bits above it. -/

namespace Sys2Proof.Machine

/-- What a round XORs in, by the bit that is shifted out (R132). -/
def polyIf (b : Bool) : Word32 := if b then 0xEDB88320#32 else 0#32

theorem polyIf_xor : ∀ a b : Bool, polyIf (a ^^ b) = polyIf a ^^^ polyIf b := by
  decide

theorem serialBit_eq (c : Word32) : Ref.serialBit c = c >>> 1 ^^^ polyIf (c.getLsbD 0) := by
  unfold Ref.serialBit polyIf
  split <;> simp

theorem serialBit_xor (x y : Word32) :
    Ref.serialBit (x ^^^ y) = Ref.serialBit x ^^^ Ref.serialBit y := by
  rw [serialBit_eq, serialBit_eq x, serialBit_eq y, BitVec.ushiftRight_xor_distrib, BitVec.getLsbD_xor, polyIf_xor]
  ac_rfl

theorem serialBit_iterate_xor (n : Nat) (x y : Word32) :
    Ref.serialBit^[n] (x ^^^ y) = Ref.serialBit^[n] x ^^^ Ref.serialBit^[n] y := by
  induction n generalizing x y with
  | zero => rfl
  | succ n ih => simp only [Function.iterate_succ_apply, serialBit_xor, ih]

/-- Rounds that shift out zeros XOR nothing in. -/
theorem serialBit_iterate_of_low_zero (n : Nat) (x : Word32) (hlow : ∀ k < n, x.getLsbD k = false) :
    Ref.serialBit^[n] x = x >>> n := by
  induction n generalizing x with
  | zero => rw [Function.iterate_zero_apply, BitVec.ushiftRight_zero]
  | succ n ih =>
    have hround : Ref.serialBit x = x >>> 1 := by
      rw [serialBit_eq, hlow 0 n.succ_pos]
      exact BitVec.xor_zero
    have hrest : ∀ k < n, (x >>> 1).getLsbD k = false := by
      intro k hk
      rw [BitVec.getLsbD_ushiftRight]
      exact hlow (1 + k) (by omega)
    rw [Function.iterate_succ_apply, hround, ih _ hrest, ← BitVec.shiftRight_add, Nat.add_comm]

/-- Each listed entry is eight rounds of its index, by evaluation over the 256 indices (R132). -/
theorem crcT_eq_serialBit_iterate : ∀ i : Byte, crcT i = Ref.serialBit^[8] (i.setWidth 32) := by
  decide

theorem byte_shift_eight (b : Byte) : b.setWidth 32 >>> 8 = 0#32 := by
  apply BitVec.eq_of_toNat_eq
  have := b.isLt
  simp only [BitVec.toNat_ushiftRight, BitVec.toNat_setWidth, BitVec.toNat_ofNat, Nat.shiftRight_eq_div_pow]
  omega

/-- Eight rounds: the word is its low byte XOR the bits above, which only move down. -/
theorem serialBit_iterate_eight (x : Word32) : Ref.serialBit^[8] x = crcT (x.setWidth 8) ^^^ x >>> 8 := by
  have hhigh : Ref.serialBit^[8] (x ^^^ (x.setWidth 8).setWidth 32) = x >>> 8 := by
    rw [serialBit_iterate_of_low_zero 8 _ ?low_zero, BitVec.ushiftRight_xor_distrib, byte_shift_eight,
      BitVec.xor_zero]
    intro k hk
    have hk' : k < 32 := by omega
    simp [hk, hk']
  calc Ref.serialBit^[8] x
      = Ref.serialBit^[8] ((x.setWidth 8).setWidth 32 ^^^ (x ^^^ (x.setWidth 8).setWidth 32)) := by
        rw [BitVec.xor_comm x, ← BitVec.xor_assoc, BitVec.xor_self, BitVec.zero_xor]
    _ = crcT (x.setWidth 8) ^^^ x >>> 8 := by
        rw [serialBit_iterate_xor, hhigh, crcT_eq_serialBit_iterate]

/-- One byte of the bit-serial checksum is one update of the table-driven register (R134, R138). -/
theorem serialByte_eq_crcUpdate (c : Word32) (b : Byte) : Ref.serialByte c b = crcUpdate c b := by
  rw [Ref.serialByte, serialBit_iterate_eight, crcUpdate_eq, BitVec.setWidth_xor,
    BitVec.setWidth_setWidth_of_le b (by decide), BitVec.setWidth_eq, BitVec.ushiftRight_xor_distrib,
    byte_shift_eight, BitVec.xor_zero]

theorem serialCrc_eq_crc32 (bs : List Byte) : Ref.serialCrc bs = crc32 bs := by
  have hfold : Ref.serialByte = crcUpdate := funext₂ serialByte_eq_crcUpdate
  rw [Ref.serialCrc, crc32, hfold]

/-- There is an entry 255, and none after it. -/
theorem crcRom_length : crcRom.length = 256 := by
  have hlast : crcRom[255]? = some 0x2D02EF8D#32 := by decide
  have hend : crcRom[256]? = none := by decide
  obtain ⟨hlt, -⟩ := List.getElem?_eq_some_iff.mp hlast
  exact le_antisymm (List.getElem?_eq_none_iff.mp hend) hlt

/-- An 8-bit index never falls outside the table (R51). -/
theorem crcRom_getElem? (i : Byte) : crcRom[i.toNat]? = some (crcT i) := by
  have hi : i.toNat < crcRom.length := by
    rw [crcRom_length]
    exact i.isLt
  rw [crcT, List.getD_eq_getElem _ _ hi, List.getElem?_eq_getElem hi]

/-- Settles O8: byte by byte, both registers are the same. -/
theorem crc32GivesTheBitSerialChecksum : Obligations.Crc32GivesTheBitSerialChecksum :=
  fun s => exec_crc32_of_checksum (serialCrc_eq_crc32 s.inBuf).symm

/-- Settles O9: the 256 entries by evaluation, and the index is in range. -/
theorem crcTableIsTheComputedTable : Obligations.CrcTableIsTheComputedTable :=
  ⟨crcRom_length, fun i => ⟨crcT_eq_serialBit_iterate i, crcRom_getElem? i⟩⟩

end Sys2Proof.Machine
end

section
/-! PROOF. Two codec statements whose content stands above: decode as the inverse of encode (30_encoding.md R74, R77),
and a varint of at most nine bytes (42_varint.md R153, R157, R158). -/

namespace Sys2Proof.Machine

/-- Settles O2: the fields of a word that decodes to a command are that command's, and they cover the word. -/
theorem decodeIsTheInverseOfEncode : Obligations.DecodeIsTheInverseOfEncode :=
  fun _ _ => decode_eq_ok_iff

/-- Settles O25: nine groups fit 63 bits, so the value in 64 bits is the value, under either policy. -/
theorem varintDecValueAndPosition : Obligations.VarintDecValueAndPosition := by
  intro s p before cont after last harg hp hin hcont hlen hlast
  have hbound : Ref.value (cont ++ [last]) < 2 ^ 64 := by
    have hgroups := value_lt (cont ++ [last])
    rw [List.length_append, List.length_singleton] at hgroups
    exact hgroups.trans_le (Nat.pow_le_pow_right (by decide) (by omega))
  have hdec := varintDecode_ok (pol := s.cfg.g10) (drop_of_append hp hin) hcont (by omega) hlast (by omega)
  have hend : p.toNat + cont.length + 1 = before.length + cont.length + 1 := by rw [hp]
  rw [hend] at hdec
  exact ⟨hbound, exec_varintDec_ok harg hdec⟩

end Sys2Proof.Machine
end

section
/-! PROOF. Whose step comes next (20_memory.md R59): the block's, an action of the host, a statement of its program, or
the reset event; and what the block's turn and the reset event do. -/

namespace Sys2Proof.Machine

section

variable {s : State} {ts : List Turn}

/-- The step of the agent at the head of the schedule (R59). -/
theorem step_of_cons {tn : Turn} (hturn : s.turns = tn :: ts) : step s = runTurn tn (Ref.popped s) := by
  simp only [step, takeTurn, hturn, popped_of_cons hturn]

theorem step_of_blockMoves (hblock : Ref.blockMoves s) : step s = blockTurn (Ref.popped s) := by
  obtain hnil | ⟨ts, hcons⟩ := blockMoves_iff.mp hblock
  · rw [popped_of_nil hnil, step, takeTurn, hnil]
  · exact step_of_cons hcons

theorem blockTurn_of_busy (hbusy : s.busy = true) : blockTurn s = perform s := if_pos hbusy

theorem blockTurn_of_idle (hidle : s.busy = false) : blockTurn s = .next s := by
  simp only [blockTurn, hidle, Bool.false_eq_true, if_false]

/-- The host's program turn is the statement it stands at (R78). -/
theorem step_program {st : Stmt} (hturn : s.turns = .program :: ts)
    (hst : s.agent.prog[s.agent.pc]? = some st) : step s = execStmt st (Ref.popped s) := by
  have hst' : (Ref.popped s).agent.prog[(Ref.popped s).agent.pc]? = some st := hst
  rw [step_of_cons hturn, runTurn, programTurn, hst']

/-- Past the last statement the host does nothing (log 11). -/
theorem step_program_end (hturn : s.turns = .program :: ts)
    (hend : s.agent.prog[s.agent.pc]? = none) : step s = .next (Ref.popped s) := by
  have hend' : (Ref.popped s).agent.prog[(Ref.popped s).agent.pc]? = none := hend
  rw [step_of_cons hturn, runTurn, programTurn, hend']

end

/-- Settles O4: the block's turn at BUSY = 1. -/
theorem stepRunsThePendingCommand : Obligations.StepRunsThePendingCommand := by
  intro s hbusy hblock
  have hstep : step s = perform (Ref.popped s) :=
    (step_of_blockMoves hblock).trans (blockTurn_of_busy hbusy)
  exact ⟨hstep, fun w i hw hdecode => hstep.trans (perform_of_decode_ok hw hdecode)⟩

/-- Settles O42: the head of the schedule is the host's action or its program. -/
theorem hostTurnsFollowTheSchedule : Obligations.HostTurnsFollowTheSchedule := by
  intro s ts
  refine ⟨fun a hturn => ?action, fun hturn => ⟨fun st hst => ?statement, fun hend => ?past⟩⟩ <;>
    rw [popped_of_cons hturn]
  case action => exact step_of_cons hturn
  case statement => exact step_program hturn hst
  case past => exact step_program_end hturn hend

/-- Settles O43: the reset event writes the values of R230 over any state. -/
theorem resetEventSetsEveryRegister : Obligations.ResetEventSetsEveryRegister :=
  fun _ _ hturn => ⟨_, step_of_cons hturn, rfl, rfl, rfl, rfl, rfl, rfl, rfl, rfl, rfl, rfl, rfl⟩

/-- Settles O45: the block's turn at BUSY = 0. -/
theorem idleBlockKeepsEveryRegister : Obligations.IdleBlockKeepsEveryRegister :=
  fun _ hidle hblock => (step_of_blockMoves hblock).trans (blockTurn_of_idle hidle)

/-- Settles O51: IN is empty and no result register holds a value. -/
theorem resetMeetsTheInvariant : Obligations.ResetMeetsTheInvariant where
  cfgWf := rfl
  inFits := rfl
  outFits bs hout := nomatch hout
  busyCmd hbusy := nomatch hbusy
  freshStatus _ := rfl
  resultOk := by decide
  okResult := by decide
  outNoRes _ := rfl
  posRes hpos := absurd rfl hpos

end Sys2Proof.Machine
end

section
/-! PROOF. One action of the host (10_state.md R36, R37, R54, R55, R80): a read that has a value, the write of CMD, and
the refusal of every other action while BUSY = 1. -/

namespace Sys2Proof.Machine

section

variable {s : State}

@[simp] theorem cell_some_map {α : Type} (r : Reg) (f : α → ReadVal) (v : α) :
    (cell r (some v)).map f = .ok (f v) := rfl

theorem hostAct_read_of_ok {q : ReadReq} {v : ReadVal} (h : readReq s q = .ok v) :
    hostAct (.read q) s = .next (Ref.noted v s) := by
  simp only [hostAct, hostRead, h]
  rfl

theorem hostAct_read_of_idle {q : ReadReq} {v : ReadVal} (hidle : s.busy = false) (h : readNow s q = .ok v) :
    hostAct (.read q) s = .next (Ref.noted v s) :=
  hostAct_read_of_ok ((readReq_of_idle hidle q).trans h)

/-- BUSY can be read at any time (R37). -/
theorem hostAct_read_busy (s : State) : hostAct (.read (.reg .busy)) s = .next (Ref.noted (.bit s.busy) s) :=
  hostAct_read_of_ok (by simp [readReq, readNow])

theorem hostAct_writeCmd_of_idle (hidle : s.busy = false) (w : Word32) :
    hostAct (.writeCmd w) s = .next (issue w s) := by
  simp [hostAct, hostWriteCmd, hidle]

/-- MF5 (R37, R210): each of the four actions looks at BUSY first. -/
theorem hostAct_of_busy {a : HostAction} (hbusy : s.busy = true) (ha : a ≠ .read (.reg .busy)) :
    hostAct a s = .fault .busyAccess := by
  cases a with
  | writeIn bs => simp [hostAct, hostWriteIn, hbusy]
  | writeArg v => simp [hostAct, hostWriteArg, hbusy]
  | writeCmd w => simp [hostAct, hostWriteCmd, hbusy]
  | read q =>
    have hq : q ≠ .reg .busy := fun h => ha (h ▸ rfl)
    simp [hostAct, hostRead, readReq, hbusy, hq]

end

/-- Settles O7: the write at BUSY = 0, and MF5 at the BUSY = 1 that it leaves or finds. -/
theorem writeCmdIssues : Obligations.WriteCmdIssues := by
  intro s w
  refine ⟨fun hidle => ⟨hostAct_writeCmd_of_idle hidle w, fun q hq => ?_⟩, fun hbusy => ?_⟩
  · exact hostAct_of_busy rfl (by simpa using hq)
  · exact hostAct_of_busy hbusy (by simp)

/-- Settles O38: the one action that BUSY = 1 leaves, and the others. -/
theorem busyRefusesTheHost : Obligations.BusyRefusesTheHost := by
  intro s hbusy
  refine ⟨?_, fun a ha => hostAct_of_busy hbusy ha⟩
  rw [hostAct_read_busy, hbusy]

/-- Settles O39: each of these reads has a value (R36, R54). -/
theorem readsReturnTheRegisters : Obligations.ReadsReturnTheRegisters := by
  intro s hidle
  refine ⟨?busy, ?status, ?inBuf, fun hlen => ?inLen, fun v harg => ?arg, fun v hres => ?res, fun v hpos => ?pos,
    fun bs hout => ⟨?out, fun hlen => ?outLen, fun i b hb => ?outByte⟩⟩ <;>
    apply hostAct_read_of_idle hidle
  case busy => simp only [readNow, hidle]
  case status => rfl
  case inBuf => rfl
  case inLen => simp only [readNow, State.inLen, lenWord_of_lt hlen]
  case arg => simp only [readNow, harg, cell_some_map]
  case res => simp only [readNow, hres, cell_some_map]
  case pos => simp only [readNow, hpos, cell_some_map]
  case out => simp only [readNow, hout, cell_some_map]
  case outLen => simp only [readNow, State.outLen, hout, Option.map_some, cell_some_map, lenWord_of_lt hlen]
  case outByte => simp only [readNow, hout, hb]

/-- Settles O37: the six codes, and so no code from 0x05 to 0xFE. -/
theorem statusCodeValues : Obligations.StatusCodeValues := by
  refine ⟨⟨rfl, rfl, rfl, rfl, rfl, rfl⟩, fun s => ?_⟩
  cases s.status <;> decide

end Sys2Proof.Machine
end

section
/-! PROOF. The statements of the host's program (30_encoding.md R78): what each answers while BUSY = 0, and the step
that a statement is when the host's program comes next. -/

namespace Sys2Proof.Machine

section

variable {s : State} {ts : List Turn} {prog : List Stmt} {bs xs : List Byte} {v : Word64} {f : Fault}

/-- A sequence fits IN_CAP if it fits every bound that there is (R9, R26). -/
theorem withinCap_of_forall_le {cap : Option Nat} {n : Nat} (h : ∀ c, cap = some c → n ≤ c) :
    withinCap cap n = true := by
  cases cap with
  | none => rfl
  | some c => exact decide_eq_true (h c rfl)

theorem withinCap_of_lt {cap : Option Nat} {c n : Nat} (hcap : cap = some c) (h : c < n) :
    withinCap cap n = false := by
  subst hcap
  exact decide_eq_false h.not_ge

/-! ### Operands -/

theorem evalSeq_out_of_idle (hidle : s.busy = false) : evalSeq s .out = cell .out s.out := by
  simp [evalSeq, hostOut, hidle]

theorem evalSeq_out_of_some (hidle : s.busy = false) (hout : s.out = some bs) : evalSeq s .out = .ok bs := by
  rw [evalSeq_out_of_idle hidle, hout, cell]

/-- MF1 (R38, R210). -/
theorem evalSeq_out_of_bottom (hidle : s.busy = false) (hout : s.out = none) :
    evalSeq s .out = .error (.bottomRead .out) := by
  rw [evalSeq_out_of_idle hidle, hout, cell]

theorem evalSeq_cat_bytes_of_ok {e : SeqExpr} (h : evalSeq s e = .ok bs) :
    evalSeq s (.cat (.bytes xs) e) = .ok (xs ++ bs) := by
  simp only [evalSeq, h]

theorem evalSeq_cat_bytes_of_error {e : SeqExpr} (h : evalSeq s e = .error f) :
    evalSeq s (.cat (.bytes xs) e) = .error f := by
  simp only [evalSeq, h]

theorem evalVal_res_of_idle (hidle : s.busy = false) : evalVal s .res = cell .res s.res := by
  simp [evalVal, hostWord, hidle]

theorem evalVal_pos_of_idle (hidle : s.busy = false) : evalVal s .pos = cell .pos s.pos := by
  simp [evalVal, hostWord, hidle]

/-- A variable's value is the newest one saved (log 9). -/
theorem lookupVar_of_newest {x : Nat} {r : ReadVal} {vars : List (Nat × ReadVal)}
    (h : s.agent.vars = (x, r) :: vars) : lookupVar x s = .ok r := by
  simp [lookupVar, h]

theorem evalSeq_var_of_bytes {x : Nat} (h : lookupVar x s = .ok (.bytes bs)) : evalSeq s (.var x) = .ok bs := by
  simp only [evalSeq, varBytes, h]

theorem evalVal_var_of_word {x : Nat} (h : lookupVar x s = .ok (.word v)) : evalVal s (.var x) = .ok v := by
  simp only [evalVal, varWord, h]

/-! ### Writes of IN, ARG and CMD -/

theorem execStmt_inSeq_of_ok {e : SeqExpr} (h : evalSeq s e = .ok bs) :
    execStmt (.inSeq e) s = thenAdvance (hostAct (.writeIn bs) s) := by
  simp only [execStmt, stmtIn, h, hostAct]

theorem execStmt_inSeq_of_error {e : SeqExpr} (h : evalSeq s e = .error f) :
    execStmt (.inSeq e) s = .fault f := by
  simp only [execStmt, stmtIn, h]

theorem execStmt_inSeq_of_fits {e : SeqExpr} (hidle : s.busy = false) (h : evalSeq s e = .ok bs)
    (hfits : ∀ cap, s.cfg.inCap = some cap → bs.length ≤ cap) :
    execStmt (.inSeq e) s = .next (advance (setIn bs s)) := by
  rw [execStmt_inSeq_of_ok h, hostAct_writeIn_of_fits hidle (withinCap_of_forall_le hfits), thenAdvance]

theorem execStmt_inSeq_of_exceeds {e : SeqExpr} {cap : Nat} (hidle : s.busy = false)
    (h : evalSeq s e = .ok bs) (hcap : s.cfg.inCap = some cap) (hlt : cap < bs.length) :
    execStmt (.inSeq e) s = .fault .inCapExceeded := by
  rw [execStmt_inSeq_of_ok h, hostAct_writeIn_of_not_fits hidle (withinCap_of_lt hcap hlt), thenAdvance]

theorem execStmt_arg_of_ok {e : ValExpr} (hidle : s.busy = false) (h : evalVal s e = .ok v) :
    execStmt (.arg e) s = .next (advance (setArg v s)) := by
  simp only [execStmt, stmtArg, h, hostWriteArg, hidle, Bool.false_eq_true, if_false, thenAdvance]

theorem execStmt_arg_of_error {e : ValExpr} (h : evalVal s e = .error f) :
    execStmt (.arg e) s = .fault f := by
  simp only [execStmt, stmtArg, h]

theorem execStmt_cmdWord_of_idle (hidle : s.busy = false) (w : Word32) :
    execStmt (.cmdWord w) s = .next (advance (issue w s)) := by
  simp only [execStmt, stmtCmd, hostWriteCmd, hidle, Bool.false_eq_true, if_false, thenAdvance]

/-- A mnemonic stands for its command word (R77). -/
theorem execStmt_cmd (i : Instr) (s : State) : execStmt (.cmd i) s = execStmt (.cmdWord (encode i)) s := rfl

/-! ### Control -/

theorem execStmt_wait_of_busy (hbusy : s.busy = true) : execStmt .wait s = .next s := if_pos hbusy

theorem execStmt_wait_of_idle (hidle : s.busy = false) : execStmt .wait s = .next (advance s) := by
  simp only [execStmt, stmtWait, hidle, Bool.false_eq_true, if_false]

theorem execStmt_save_of_ok {x : Nat} {q : SaveReg} {r : ReadVal} (hidle : s.busy = false)
    (h : readNow s (saveRequest q) = .ok r) : execStmt (.save x q) s = .next (advance (bindVar x r s)) := by
  simp only [execStmt, stmtSave, readReq_of_idle hidle, h]

/-- A label stands where its first occurrence is (log 10). -/
theorem labelPos_of_first {l k : Nat} (hfirst : ∀ j, j < k → prog[j]? ≠ some (.label l))
    (hk : prog[k]? = some (.label l)) : labelPos prog l = some k := by
  obtain ⟨hlt, hlabel⟩ := List.getElem?_eq_some_iff.mp hk
  refine List.findIdx?_eq_some_iff_getElem.mpr ⟨hlt, by simp [hlabel], fun j hj => ?_⟩
  have hne := hfirst j hj
  rw [List.getElem?_eq_getElem (hj.trans hlt), ne_eq, Option.some.injEq] at hne
  simpa using hne

theorem branchTo_of_labelPos {l k : Nat} (h : labelPos s.agent.prog l = some k) :
    branchTo l s = .next (jump k s) := by
  simp only [branchTo, h]

theorem execStmt_bneStatus_of_ne {code : Byte} {l : Nat} (hidle : s.busy = false) (hne : s.status.code ≠ code) :
    execStmt (.bneStatus code l) s = branchTo l s := by
  simp only [execStmt, stmtBneStatus, hidle, hne, Bool.false_eq_true, if_false]

theorem execStmt_bneStatus_of_eq {code : Byte} {l : Nat} (hidle : s.busy = false) (heq : s.status.code = code) :
    execStmt (.bneStatus code l) s = .next (advance s) := by
  simp only [execStmt, stmtBneStatus, hidle, heq, Bool.false_eq_true, if_false, if_true]

/-! ### `in` and `arg` as the next step -/

theorem step_inSeq_of_fits {e : SeqExpr} (hidle : s.busy = false) (hturn : s.turns = .program :: ts)
    (hst : s.agent.prog[s.agent.pc]? = some (.inSeq e)) (h : evalSeq (Ref.popped s) e = .ok bs)
    (hfits : ∀ cap, s.cfg.inCap = some cap → bs.length ≤ cap) :
    step s = .next (Ref.atStmt (s.agent.pc + 1) { Ref.popped s with inBuf := bs }) :=
  (step_program hturn hst).trans (execStmt_inSeq_of_fits (s := Ref.popped s) hidle h hfits)

theorem step_inSeq_of_exceeds {e : SeqExpr} {cap : Nat} (hidle : s.busy = false) (hturn : s.turns = .program :: ts)
    (hst : s.agent.prog[s.agent.pc]? = some (.inSeq e)) (h : evalSeq (Ref.popped s) e = .ok bs)
    (hcap : s.cfg.inCap = some cap) (hlt : cap < bs.length) : step s = .fault .inCapExceeded :=
  (step_program hturn hst).trans (execStmt_inSeq_of_exceeds (s := Ref.popped s) hidle h hcap hlt)

theorem step_inSeq_of_error {e : SeqExpr} (hturn : s.turns = .program :: ts)
    (hst : s.agent.prog[s.agent.pc]? = some (.inSeq e)) (h : evalSeq (Ref.popped s) e = .error f) :
    step s = .fault f :=
  (step_program hturn hst).trans (execStmt_inSeq_of_error h)

/-- An operand of `arg` that is a cell gives its value, or is MF1 if it holds ⊥ (R38, R78). -/
theorem step_arg_of_cell {e : ValExpr} {r : Reg} {c : Option Word64} (hidle : s.busy = false)
    (hturn : s.turns = .program :: ts) (hst : s.agent.prog[s.agent.pc]? = some (.arg e))
    (h : evalVal (Ref.popped s) e = cell r c) :
    (∀ v, c = some v → step s = .next (Ref.atStmt (s.agent.pc + 1) { Ref.popped s with arg := some v })) ∧
      (c = none → step s = .fault (.bottomRead r)) := by
  rw [step_program hturn hst]
  refine ⟨?_, ?_⟩
  · rintro v rfl
    exact execStmt_arg_of_ok (s := Ref.popped s) hidle h
  · rintro rfl
    exact execStmt_arg_of_error h

end

/-- Settles O54: the two forms of `cmd` are one write, and `wait` looks at BUSY. -/
theorem cmdAndWaitStatements : Obligations.CmdAndWaitStatements := by
  intro s ts hturn
  refine ⟨fun w hst hidle => ?cmdWord, fun i hst hidle => ?cmd,
    fun hst => ⟨fun hbusy => ?waits, fun hidle => ?goesOn⟩⟩ <;>
    rw [step_program hturn hst]
  case cmdWord => exact execStmt_cmdWord_of_idle (s := Ref.popped s) hidle w
  case cmd => exact execStmt_cmdWord_of_idle (s := Ref.popped s) hidle (encode i)
  case waits => exact execStmt_wait_of_busy hbusy
  case goesOn => exact execStmt_wait_of_idle hidle

/-- Settles O55: the operand's value or its fault, and then the write. -/
theorem chainingStatements : Obligations.ChainingStatements := by
  intro s ts hturn hidle
  have hout {bs : List Byte} (h : s.out = some bs) : evalSeq (Ref.popped s) .out = .ok bs :=
    evalSeq_out_of_some hidle h
  have hbottom (h : s.out = none) : evalSeq (Ref.popped s) .out = .error (.bottomRead .out) :=
    evalSeq_out_of_bottom hidle h
  refine ⟨fun hst => ⟨fun bs h => ?fits, fun bs cap h => ?exceeds, fun h => ?bottom⟩,
    fun xs hst => ⟨fun bs h hfits => ?catFits, fun bs cap h hcap hlt => ?catExceeds, fun h => ?catBottom⟩,
    fun hst => ?res, fun hst => ?pos⟩
  case fits => exact step_inSeq_of_fits hidle hturn hst (hout h)
  case exceeds => exact step_inSeq_of_exceeds hidle hturn hst (hout h)
  case bottom => exact step_inSeq_of_error hturn hst (hbottom h)
  case catFits =>
    exact step_inSeq_of_fits hidle hturn hst (evalSeq_cat_bytes_of_ok (hout h)) (by simpa using hfits)
  case catExceeds =>
    exact step_inSeq_of_exceeds hidle hturn hst (evalSeq_cat_bytes_of_ok (hout h)) hcap (by simpa using hlt)
  case catBottom => exact step_inSeq_of_error hturn hst (evalSeq_cat_bytes_of_error (hbottom h))
  case res => exact step_arg_of_cell hidle hturn hst (evalVal_res_of_idle hidle)
  case pos => exact step_arg_of_cell hidle hturn hst (evalVal_pos_of_idle hidle)

/-- Settles O56: each statement as the step, and the label's place for the branches. -/
theorem controlStatements : Obligations.ControlStatements := by
  intro s ts hturn
  refine ⟨fun l k hfirst hk => ?branches, fun l hst => step_program hturn hst, fun hst => step_program hturn hst⟩
  have hbranch : branchTo l (Ref.popped s) = .next (Ref.atStmt k (Ref.popped s)) :=
    branchTo_of_labelPos (labelPos_of_first hfirst hk)
  refine ⟨fun hst => ?b, fun code hst hidle => ⟨fun hne => ?bneTaken, fun heq => ?bneNotTaken⟩⟩ <;>
    rw [step_program hturn hst]
  case b => exact hbranch
  case bneTaken => exact (execStmt_bneStatus_of_ne (s := Ref.popped s) hidle hne).trans hbranch
  case bneNotTaken => exact execStmt_bneStatus_of_eq hidle heq

end Sys2Proof.Machine
end

section
/-! PROOF. Several steps in a row (20_memory.md R59; 30_encoding.md R78, R79; 70_reset_and_hazards.md R237): polling, a
saved variable and its use, and `run`. A command does not depend on the host's state or on the schedule. -/

namespace Sys2Proof.Machine

section

variable {s t u : State} {a : HostAgent} {ts : List Turn}

/-! ### The host's state and the schedule around a command -/

/-- The state with another host agent and another schedule: none of the block's registers changes. -/
def withHost (a : HostAgent) (ts : List Turn) (s : State) : State := { s with agent := a, turns := ts }

theorem commitOut_withHost {r : Except Status (List Byte)} (h : commitOut r s = .next t) :
    commitOut r (withHost a ts s) = .next (withHost a ts t) := by
  cases r with
  | ok bs => cases h; rfl
  | error st => cases h; rfl

theorem commitResPos_withHost {r : Except Status (Word64 × Nat)} (h : commitResPos r s = .next t) :
    commitResPos r (withHost a ts s) = .next (withHost a ts t) := by
  cases r with
  | ok vp => cases h; rfl
  | error st => cases h; rfl

/-- A command carries the host's state and the schedule through unread. -/
theorem exec_withHost {i : Instr} (h : exec i s = .next t) :
    exec i (withHost a ts s) = .next (withHost a ts t) := by
  cases i with
  | crc32 => cases h; rfl
  | cobsStuff => cases h; rfl
  | cobsStuffD => cases h; rfl
  | cobsUnstuff => exact commitOut_withHost h
  | cobsUnstuffD => exact commitOut_withHost h
  | varintEnc =>
    obtain ⟨v, harg, hnext⟩ := withArg_next h
    cases hnext
    exact withArg_some (s := withHost a ts s) harg _
  | varintDec =>
    obtain ⟨p, harg, hnext⟩ := withArg_next h
    exact (withArg_some (s := withHost a ts s) harg _).trans (commitResPos_withHost hnext)

theorem perform_withHost (h : perform s = .next t) :
    perform (withHost a ts s) = .next (withHost a ts t) := by
  obtain ⟨w, hw, ⟨i, hdecode, hexec⟩ | ⟨e, hdecode, rfl⟩⟩ := perform_next_of_cmd h
  · exact (perform_of_decode_ok (s := withHost a ts s) hw hdecode).trans (exec_withHost hexec)
  · exact perform_of_decode_error (s := withHost a ts s) hw hdecode

/-- A pending command that has its operands ends (R82). -/
theorem perform_of_ready (hready : performReady s = true) : ∃ t, perform s = .next t := by
  unfold performReady at hready
  split at hready
  · cases hready
  · rename_i w hw
    split at hready
    · rename_i i hdecode
      rw [perform_of_decode_ok hw hdecode]
      obtain hnext | ⟨-, harg, rfl | rfl⟩ := exec_total i s
      · exact hnext
      · simp [needsArg, harg] at hready
      · simp [needsArg, harg] at hready
    · exact ⟨_, perform_of_decode_error hw ‹_›⟩

/-! ### Steps in a row -/

theorem steps_succ_of_step {n : Nat} (h : step s = .next t) : Ref.steps (n + 1) s = Ref.steps n t := by
  simp only [Ref.steps, h]

theorem steps_one : Ref.steps 1 s = step s := by
  simp only [Ref.steps]
  cases step s <;> rfl

/-- One more step at the end. -/
theorem steps_succ_of_steps {n : Nat} (h : Ref.steps n s = .next t) : Ref.steps (n + 1) s = step t := by
  induction n generalizing s with
  | zero => cases h; exact steps_one
  | succ n ih =>
    cases hstep : step s with
    | next u =>
      rw [steps_succ_of_step hstep] at h ⊢
      exact ih h
    | fault f => simp only [Ref.steps, hstep] at h; cases h
    | refused r => simp only [Ref.steps, hstep] at h; cases h

/-- Polls of BUSY use up their schedule entries and change the host's state only (R37, R55). -/
theorem steps_polls (n : Nat) (hturns : s.turns = List.replicate n (.host (.read (.reg .busy))) ++ ts) :
    ∃ a, Ref.steps n s = .next (withHost a ts s) := by
  induction n generalizing s with
  | zero =>
    rw [List.replicate_zero, List.nil_append] at hturns
    subst hturns
    exact ⟨s.agent, rfl⟩
  | succ n ih =>
    rw [List.replicate_succ, List.cons_append] at hturns
    have hpoll : step s = .next (Ref.noted (.bit s.busy) (Ref.popped s)) :=
      (step_of_cons hturns).trans (hostAct_read_busy _)
    have hrest : (Ref.noted (.bit s.busy) (Ref.popped s)).turns =
        List.replicate n (.host (.read (.reg .busy))) ++ ts := by
      simp only [Ref.noted, Ref.popped, hturns, List.tail_cons]
    rw [steps_succ_of_step hpoll]
    exact ih hrest

/-! ### A saved variable -/

/-- The state after `save x, _` of the value `r`, with the schedule entries of the save and of the next statement
used up. -/
def saved (x : Nat) (r : ReadVal) (s : State) : State := Ref.popped (advance (bindVar x r (Ref.popped s)))

@[simp] theorem saved_pc (x : Nat) (r : ReadVal) (s : State) : (saved x r s).agent.pc = s.agent.pc + 1 := rfl
@[simp] theorem saved_out (x : Nat) (r : ReadVal) (s : State) : (saved x r s).out = s.out := rfl
@[simp] theorem saved_res (x : Nat) (r : ReadVal) (s : State) : (saved x r s).res = s.res := rfl

theorem lookupVar_saved (x : Nat) (r : ReadVal) (s : State) : lookupVar x (saved x r s) = .ok r :=
  lookupVar_of_newest rfl

/-- A read does not look at the schedule. -/
theorem readNow_popped (s : State) (q : ReadReq) : readNow (Ref.popped s) q = readNow s q := by
  cases q with
  | reg r => cases r <;> rfl
  | outByte i => rfl

/-- A `save` and the statement after it, as two turns of the host's program. -/
theorem steps_save {x : Nat} {q : SaveReg} {r : ReadVal} {st : Stmt} (hidle : s.busy = false)
    (hturns : s.turns = [.program, .program]) (hsave : s.agent.prog[s.agent.pc]? = some (.save x q))
    (hnext : s.agent.prog[s.agent.pc + 1]? = some st) (hread : readNow s (saveRequest q) = .ok r) :
    Ref.steps 2 s = execStmt st (saved x r s) := by
  have hfirst : step s = .next (advance (bindVar x r (Ref.popped s))) :=
    (step_program hturns hsave).trans
      (execStmt_save_of_ok (s := Ref.popped s) hidle ((readNow_popped s _).trans hread))
  have hturn : (advance (bindVar x r (Ref.popped s))).turns = [.program] := by
    simp [Ref.popped, hturns]
  rw [steps_succ_of_step hfirst, steps_one, step_program hturn hnext, saved]

end

/-- Settles O53: polls leave the pending command as it is, and then the block performs it. -/
theorem pollingSeesTheCompletion : Obligations.PollingSeesTheCompletion := by
  intro n s hbusy hready hturns
  refine ⟨fun k hk => ?polling, ?completion⟩
  case polling =>
    rw [← Nat.add_sub_cancel' hk, List.replicate_add] at hturns
    obtain ⟨a, hsteps⟩ := steps_polls k hturns
    exact ⟨_, hsteps, hbusy⟩
  case completion =>
    obtain ⟨a, hsteps⟩ := steps_polls (ts := []) n (by rw [hturns, List.append_nil])
    obtain ⟨u, hperform⟩ := perform_of_ready hready
    obtain ⟨-, -, -, hdone⟩ := perform_inputs hperform
    have hlast : step (withHost a [] s) = .next (withHost a [] u) :=
      (blockTurn_of_busy (s := withHost a [] s) hbusy).trans (perform_withHost hperform)
    exact ⟨_, u, (steps_succ_of_steps hsteps).trans hlast, hperform, hdone, rfl, rfl, rfl, rfl⟩

/-- Settles O57: the use finds the value that was saved last. -/
theorem savedVariablesAreRecalled : Obligations.SavedVariablesAreRecalled := by
  intro s x hturns hidle
  refine ⟨fun bs hsave huse hout hfits => ?out, fun v hsave huse hres => ?res⟩
  case out =>
    have hread : readNow s (.reg .out) = .ok (.bytes bs) := by rw [readNow, hout, cell_some_map]
    rw [steps_save hidle hturns hsave huse hread]
    have hvar := evalSeq_var_of_bytes (lookupVar_saved x (.bytes bs) s)
    exact ⟨_, execStmt_inSeq_of_fits (s := saved x (.bytes bs) s) hidle hvar hfits, by simp⟩
  case res =>
    have hread : readNow s (.reg .res) = .ok (.word v) := by rw [readNow, hres, cell_some_map]
    rw [steps_save hidle hturns hsave huse hread]
    have hvar := evalVal_var_of_word (lookupVar_saved x (.word v) s)
    exact ⟨_, execStmt_arg_of_ok (s := saved x (.word v) s) hidle hvar, by simp⟩

/-- Settles O58: between the two statements the state is the issued one but for the host's position and the schedule. -/
theorem runIssuesAndWaits : Obligations.RunIssuesAndWaits := by
  intro s u i hidle hturns
  refine ⟨rfl, fun hcmd hwait hexec => ?_⟩
  have hcompleted := exec_next hexec
  obtain ⟨-, -, -, hdone⟩ := hcompleted.inputs_eq
  have hagent : u.agent = s.agent := hcompleted.agent_eq
  have hissue : step s = .next (advance (issue (encode i) (Ref.popped s))) :=
    (step_program hturns hcmd).trans (execStmt_cmdWord_of_idle (s := Ref.popped s) hidle (encode i))
  have hturn : (advance (issue (encode i) (Ref.popped s))).turns = [.block, .program] := by
    simp [Ref.popped, hturns]
  have hpopped : Ref.popped (advance (issue (encode i) (Ref.popped s))) =
      withHost { s.agent with pc := s.agent.pc + 1 } [.program] { s with cmd := some (encode i), busy := true } := by
    rw [← popped_of_cons hturn]
    rfl
  have hperform : step (advance (issue (encode i) (Ref.popped s))) =
      .next (withHost { s.agent with pc := s.agent.pc + 1 } [.program] u) := by
    rw [step_of_cons hturn, runTurn, hpopped, blockTurn_of_busy rfl, perform_of_decode_ok rfl (decode_encode i),
      exec_withHost hexec]
  have hgoesOn : step (withHost { s.agent with pc := s.agent.pc + 1 } [.program] u) =
      .next { Ref.atStmt (s.agent.pc + 2) u with turns := [] } := by
    rw [step_program rfl hwait, execStmt_wait_of_idle, Ref.atStmt, hagent]
    · rfl
    · exact hdone
  rw [steps_succ_of_step hissue, steps_succ_of_step hperform, steps_one, hgoesOn]

end Sys2Proof.Machine
end
